-- ==== Sys2Proof/Word.lean ====
section
/-! DEFINITION. The words of the Hopper core (spec/00_scope.md R7, R9, R10): every quantity is an unsigned bit
vector, with bit 0 the least significant bit, or a boolean. -/

namespace Sys2Proof

/-- A data word: a register, a memory byte, an instruction byte (R7, `XLEN` and `ILEN`). -/
abbrev Byte := BitVec 8

/-- An address 0..15 (R7, `ADDR_W`). -/
abbrev Addr := BitVec 4

/-- A four-bit field of an instruction byte, an opcode or an operand (R7, `OPCODE_W` and `OPERAND_W`). -/
abbrev Nibble := BitVec 4

end Sys2Proof
end

