-- ==== Sys2Proof/Syntax.lean ====
section
/-! DEFINITION. The instructions: one constructor per row of spec/opcode_table.json. -/

namespace Sys2Proof

/-- An instruction byte, decoded (spec/30_encoding.md R43, R49). Every constructor keeps the operand nibble, the
ignored one of NOP, OUT, HLT and the reserved rows too, so that no bit of the byte is lost (log entry 7). The rows
`RESERVED_9` to `RESERVED_13` are encodings of no instruction (R50): their meaning is to raise `UndefinedOpcode`
(R101), and `Instr.wf` tells them from the eleven instructions. -/
inductive Instr where
  /-- NOP, opcode 0; the low nibble is ignored (R51, R97). -/
  | nop (ignored : Nibble)
  /-- LDA, opcode 1 (R83). -/
  | lda (address : Addr)
  /-- ADD, opcode 2 (R90). -/
  | add (address : Addr)
  /-- SUB, opcode 3 (R91). -/
  | sub (address : Addr)
  /-- STR, opcode 4 (R84). -/
  | str (address : Addr)
  /-- LDI, opcode 5 (R85). -/
  | ldi (literal : Nibble)
  /-- JMP, opcode 6 (R94). -/
  | jmp (target : Addr)
  /-- JC, opcode 7 (R95). -/
  | jc (target : Addr)
  /-- JZ, opcode 8 (R96). -/
  | jz (target : Addr)
  /-- Reserved opcode 9 (R50, R101). -/
  | reserved9 (ignored : Nibble)
  /-- Reserved opcode 10 (R50, R101). -/
  | reserved10 (ignored : Nibble)
  /-- Reserved opcode 11 (R50, R101). -/
  | reserved11 (ignored : Nibble)
  /-- Reserved opcode 12 (R50, R101). -/
  | reserved12 (ignored : Nibble)
  /-- Reserved opcode 13 (R50, R101). -/
  | reserved13 (ignored : Nibble)
  /-- OUT, opcode 14; the low nibble is ignored (R51, R98). -/
  | out (ignored : Nibble)
  /-- HLT, opcode 15; the low nibble is ignored (R51, R99). -/
  | hlt (ignored : Nibble)
  deriving DecidableEq, Repr

end Sys2Proof
end

