-- ==== Sys2Proof/WellFormed.lean ====
section
/-! DEFINITION. Which decoded bytes are instructions of the Hopper ISA (spec/30_encoding.md R49, R50, R53). -/

namespace Sys2Proof

/-- Whether the dispatch table holds a descriptor for it: true of the eleven instructions, false of the five
reserved rows, which "decode to no instruction" (R50). The field widths need no check: they are in the types. -/
def Instr.wf : Instr → Bool
  | .nop _ | .lda _ | .add _ | .sub _ | .str _ | .ldi _ | .jmp _ | .jc _ | .jz _ | .out _ | .hlt _ => true
  | .reserved9 _ | .reserved10 _ | .reserved11 _ | .reserved12 _ | .reserved13 _ => false

end Sys2Proof
end

