-- ==== Sys2Proof/Decode.lean ====
section
/-! DEFINITION. The instruction decoder and its inverse (spec/30_encoding.md R42 to R54). -/

namespace Sys2Proof

/-- The high nibble of an instruction byte, `b >> 4` (R43, R44). -/
def opcodeOf (b : Byte) : Nibble := (b >>> 4).setWidth 4

/-- The low nibble of an instruction byte, `b & 0x0F` (R43, R44). -/
def operandOf (b : Byte) : Nibble := (b &&& 0x0F#8).setWidth 4

/-- The byte `{opcode, operand}`, `opcode * 16 + operand` (R45). -/
def packByte (opcode operand : Nibble) : Byte := opcode ++ operand

/-- The row of the opcode map (R49) an opcode and an operand stand for. -/
def instrOf (opcode operand : Nibble) : Instr :=
  match opcode with
  | 0#4 => .nop operand
  | 1#4 => .lda operand
  | 2#4 => .add operand
  | 3#4 => .sub operand
  | 4#4 => .str operand
  | 5#4 => .ldi operand
  | 6#4 => .jmp operand
  | 7#4 => .jc operand
  | 8#4 => .jz operand
  | 9#4 => .reserved9 operand
  | 10#4 => .reserved10 operand
  | 11#4 => .reserved11 operand
  | 12#4 => .reserved12 operand
  | 13#4 => .reserved13 operand
  | 14#4 => .out operand
  | _ => .hlt operand  -- 15, the one opcode left

/-- The decoder on one byte: total, since the sixteen rows partition the 256 bytes (R44, R52, R53). -/
def decode (b : Byte) : Instr := instrOf (opcodeOf b) (operandOf b)

/-- Why bytes are not an instruction. -/
inductive DecodeError where
  /-- The byte's opcode is reserved, 9 to 13 (R50, R53: the outcome `Undefined`). -/
  | undefinedOpcode (byte : Byte)
  /-- There is no byte to decode; no fetch of the machine gives this. -/
  | noByte
  deriving DecidableEq, Repr

/-- The decoder with R53's twelve outcomes: one of the eleven instructions, or `Undefined`. -/
def decodeInstr (b : Byte) : Except DecodeError Instr :=
  if (decode b).wf then .ok (decode b) else .error (.undefinedOpcode b)

/-- The decoder on any list of bytes, with the bytes it leaves: an instruction is exactly one byte (R42). -/
def decodeBytes : List Byte → Except DecodeError (Instr × List Byte)
  | [] => .error .noByte
  | b :: rest => .ok (decode b, rest)

/-- The opcode of a row (R49). -/
def Instr.opcode : Instr → Nibble
  | .nop _ => 0#4
  | .lda _ => 1#4
  | .add _ => 2#4
  | .sub _ => 3#4
  | .str _ => 4#4
  | .ldi _ => 5#4
  | .jmp _ => 6#4
  | .jc _ => 7#4
  | .jz _ => 8#4
  | .reserved9 _ => 9#4
  | .reserved10 _ => 10#4
  | .reserved11 _ => 11#4
  | .reserved12 _ => 12#4
  | .reserved13 _ => 13#4
  | .out _ => 14#4
  | .hlt _ => 15#4

/-- The operand nibble of a row, used or ignored (R43, R46). -/
def Instr.operand : Instr → Nibble
  | .nop o | .lda o | .add o | .sub o | .str o | .ldi o | .jmp o | .jc o | .jz o | .reserved9 o | .reserved10 o
  | .reserved11 o | .reserved12 o | .reserved13 o | .out o | .hlt o => o

/-- The encoder: the one byte of an instruction (R45). -/
def encode (i : Instr) : Byte := packByte i.opcode i.operand

/-- The encoder as the list of the instruction's bytes (R42: exactly one). -/
def encodeBytes (i : Instr) : List Byte := [encode i]

/-- What the decoder reads from an instruction whose bits are `w`: an instruction is one byte, so `nbits` is 8. -/
def decodeTableWord (nbits w : Nat) : Option Instr :=
  if nbits = 8 ∧ w < 256 then
    match decodeBytes [BitVec.ofNat 8 w] with
    | .ok (i, _) => some i
    | .error _ => none
  else none

end Sys2Proof
end

