-- ==== Sys2Proof/Config.lean ====
section
/-! DEFINITION. The implementation parameters of spec/00_scope.md R7 that the model reads. Every parameter but
`IMAGE` is a constant of this hardware (R8); `IMAGE` is an argument of reset (`Sys2Proof.Machine.State.resetWith`).
The spec leaves no value undefined, so there is no free value here. -/

namespace Sys2Proof

/-- `MEM_SIZE`, the number of bytes of memory (R7, R34). -/
def Config.memSize : Nat := 16

/-- What an address that memory lists nothing for reads as: the zero padding of the loader contract (R120).
The one definition of it; log entry 6. -/
def Config.unlistedByte : Byte := 0

/-- `RESET_PC`, the reset vector (R16, R119). -/
def Config.resetPc : Addr := 0

/-- `RESET_A` (R12; the spec's decision D2, UNVERIFIED, log entry 2). -/
def Config.resetA : Byte := 0

/-- `RESET_OUT` (R13; the spec's decision D2, UNVERIFIED, log entry 2). -/
def Config.resetOut : Byte := 0

/-- `RESET_Z` (R14; the spec's decision D2, UNVERIFIED, log entry 2). -/
def Config.resetZ : Bool := false

/-- `RESET_C` (R15; the spec's decision D2, UNVERIFIED, log entry 2). -/
def Config.resetC : Bool := false

/-- The reset value of `FAULT_ADDR` (R19; the spec's decision D4, UNVERIFIED, log entry 4). -/
def Config.resetFaultAddr : Addr := 0

/-- The reset value of `FAULT_BYTE` (R19; the spec's decision D4, UNVERIFIED, log entry 4). -/
def Config.resetFaultByte : Byte := 0

end Sys2Proof
end

