-- ==== Sys2Proof/Machine/State.lean ====
section
/-! DEFINITION. The architectural state (spec/10_state.md R11: nine items and nothing else), its reset value, and
the two ways a step could stop. -/

namespace Sys2Proof.Machine

/-- The run state `STATUS` (R18). -/
inductive Status where
  /-- A tick performs one step. -/
  | running
  /-- Entered by HLT; terminal. -/
  | halted
  /-- Entered when a reserved opcode is fetched; terminal (the spec's decision D4, log entry 4). -/
  | faulted
  deriving DecidableEq, Repr

/-- Memory as the bytes that differ from `Config.unlistedByte`, by address, in one canonical form
(`Memory.wf` in Ops.lean). -/
abbrev Memory := List Host.Cell

/-- The nine items of R11. -/
structure State where
  /-- `A`, the accumulator (R12). -/
  a : Byte
  /-- `OUT`, the output register (R13). -/
  out : Byte
  /-- `Z`, the zero flag (R14). -/
  z : Bool
  /-- `C`, the carry and borrow flag (R15). -/
  c : Bool
  /-- `PC`, the program counter: the register's low four bits, the upper four being always zero (R16; D22, log
  entry 5). -/
  pc : Addr
  /-- `MEM[0..15]` (R17). -/
  mem : Memory
  /-- `STATUS` (R18). -/
  status : Status
  /-- `FAULT_ADDR` (R19). -/
  faultAddr : Addr
  /-- `FAULT_BYTE` (R19). -/
  faultByte : Byte
  deriving DecidableEq, Repr

/-- Why the machine faults: the one cause of R103. NO STEP ANSWERS IT: a reserved opcode's step takes the exception
and answers the next state, in which STATUS is FAULTED (R101, R106). `State.cause?` in Ops.lean reads it from such a
state. -/
inductive Fault where
  /-- Raised by fetching a byte whose opcode is 9 to 13 (R101); held in the state's fault record. Safe: the machine
  stops where the spec says it stops. -/
  | undefinedOpcode (addr : Addr) (byte : Byte)
  deriving DecidableEq, Repr

/-- Why the model gives an instruction no meaning. -/
inductive Refusal where
  /-- Raised by an arm of `exec` whose instruction has no meaning yet; no arm of this model does. Safe. -/
  | notModelled (mnemonic : String)
  deriving DecidableEq, Repr

/-- The machine right after reset (R25), with the IMAGE of an empty binary file, sixteen zero bytes (R120; log
entry 6). `State.resetWith` in Loader.lean takes any IMAGE. -/
def State.reset : State where
  a := Config.resetA
  out := Config.resetOut
  z := Config.resetZ
  c := Config.resetC
  pc := Config.resetPc
  mem := []
  status := .running
  faultAddr := Config.resetFaultAddr
  faultByte := Config.resetFaultByte

end Sys2Proof.Machine
end

