-- ==== Sys2Proof/Machine/Ops.lean ====
section
/-! DEFINITION. The named operations over memory, the registers and the run state: every access of every meaning
goes through these (spec/00_scope.md section 6, spec/20_memory.md R27 to R29, spec/40_fetch_decode_execute.md R69 to
R75, spec/60_exceptions.md R101, R106). -/

namespace Sys2Proof.Machine

/-! ### Memory -/

/-- The byte listed for an address, or what an unlisted address reads as. -/
def Memory.lookup : Memory → Nat → Byte
  | [], _ => Config.unlistedByte
  | (k, v) :: m, n => if k = n then v else Memory.lookup m n

/-- `MemRead(addr, 1)`: the address decoder selects one of the sixteen bytes (R27, R28). -/
def Memory.read (m : Memory) (addr : Addr) : Byte := Memory.lookup m addr.toNat

/-- The cell put at its place by address. -/
def Memory.insert (n : Nat) (v : Byte) : Memory → Memory
  | [] => [(n, v)]
  | (k, w) :: m => if n < k then (n, v) :: (k, w) :: m else (k, w) :: Memory.insert n v m

/-- The memory that lists nothing for an address. -/
def Memory.erase (m : Memory) (n : Nat) : Memory := m.filter fun cell => decide (cell.1 ≠ n)

/-- `MemWrite(addr, 1, v)` (R28). Writing what an unlisted address reads as only removes the entry. -/
def Memory.write (m : Memory) (addr : Addr) (v : Byte) : Memory :=
  if v = Config.unlistedByte then Memory.erase m addr.toNat
  else Memory.insert addr.toNat v (Memory.erase m addr.toNat)

/-- The canonical form from address `low` upward: addresses strictly rising and below `MEM_SIZE`, and no entry equal
to what an unlisted address reads as. -/
def Memory.wfFrom (low : Nat) : Memory → Bool
  | [] => true
  | (k, v) :: m => decide (low ≤ k) && decide (k < Config.memSize) && decide (v ≠ Config.unlistedByte)
      && Memory.wfFrom (k + 1) m

/-- The canonical form of memory: equal memories are equal lists. -/
def Memory.wf (m : Memory) : Bool := Memory.wfFrom 0 m

/-- `MEM[0..15]` as the list of its sixteen bytes (R17). -/
def Memory.bytes (m : Memory) : List Byte := (List.range Config.memSize).map (Memory.lookup m)

/-! ### Registers and run state -/

/-- `A <- v` (R12). -/
def State.setA (s : State) (v : Byte) : State := { s with a := v }

/-- `OUT <- v` (R13). -/
def State.setOut (s : State) (v : Byte) : State := { s with out := v }

/-- `Z <- z` and `C <- c`: only ADD and SUB write the flags, and both of them (R14, R15). -/
def State.setFlags (s : State) (z c : Bool) : State := { s with z := z, c := c }

/-- `pc <- target` (R16). -/
def State.setPc (s : State) (target : Addr) : State := { s with pc := target }

/-- `STATUS <- status` (R18). -/
def State.setStatus (s : State) (status : Status) : State := { s with status := status }

/-- `MemRead(addr, 1)` (R28). -/
def State.memRead (s : State) (addr : Addr) : Byte := Memory.read s.mem addr

/-- `MemWrite(addr, 1, v)` (R28). -/
def State.memWrite (s : State) (addr : Addr) (v : Byte) : State := { s with mem := Memory.write s.mem addr v }

/-- The 2-bit encoding of STATUS; 3 never occurs (R18; the spec's decision D5). -/
def Status.code : Status → BitVec 2
  | .running => 0#2
  | .halted => 1#2
  | .faulted => 2#2

/-- The program counter as the 8-bit register the spec describes, its upper four bits zero (R16; log entry 5). -/
def State.pcRegister (s : State) : Byte := s.pc.setWidth 8

/-- The address after `pc`, modulo 16 (R74; the spec's decision D1, UNVERIFIED, log entry 1). -/
def nextPc (pc : Addr) : Addr := pc + 1#4

/-! ### The phases of a step -/

/-- Whether a tick performs a step (R68, R77). -/
def State.isRunning (s : State) : Bool := decide (s.status = .running)

/-- Fetch: `instruction = MemRead(PC, 1)` (R69). -/
def State.fetch (s : State) : Byte := s.memRead s.pc

/-- What executing an instruction gives: the state its transition function leaves, and the pair
`(haltRequested, advancePC)` (R72, R73). -/
structure Executed where
  state : State
  haltRequested : Bool
  advancePC : Bool
  deriving DecidableEq, Repr

/-- The pair `(false, true)`: go on at the next address (R73). -/
def State.proceed (s : State) : Executed := ⟨s, false, true⟩

/-- The pair `(false, false)`: a taken jump has set PC itself (R73, R93). -/
def State.jumped (s : State) : Executed := ⟨s, false, false⟩

/-- The pair `(true, true)`: HLT (R73; the spec's decision D3, UNVERIFIED, log entry 3). -/
def State.requestHalt (s : State) : Executed := ⟨s, true, true⟩

/-- Advance: if `advancePC`, `PC <- (PC + 1) mod 16` (R74). -/
def State.advancePhase (s : State) (advancePC : Bool) : State := if advancePC then s.setPc (nextPc s.pc) else s

/-- Halt check: if `haltRequested`, `STATUS <- HALTED` (R75). -/
def State.haltPhase (s : State) (haltRequested : Bool) : State := if haltRequested then s.setStatus .halted else s

/-- The rest of a step after execute: advance, then the halt check (R76). -/
def Executed.complete (r : Executed) : State := (r.state.advancePhase r.advancePC).haltPhase r.haltRequested

/-! ### The one exception -/

/-- `raise UndefinedOpcode(addr, byte)`: taking the exception is these three writes and nothing more, and it ends the
step, so PC stays at the offending byte (R101, R106). There is no handler, and no return: only reset leaves FAULTED
(R107). -/
def State.raiseUndefinedOpcode (s : State) (addr : Addr) (byte : Byte) : State :=
  { s with faultAddr := addr, faultByte := byte, status := .faulted }

/-- The diagnostic of a faulted machine, the cause with its two contents (R103, R116). -/
def State.cause? (s : State) : Option Fault :=
  if s.status = .faulted then some (.undefinedOpcode s.faultAddr s.faultByte) else none

end Sys2Proof.Machine
end

