-- ==== Sys2Proof/Machine/Operands.lean ====
section
/-! DEFINITION. The three uses of the operand field (spec/30_encoding.md R46 to R48, spec/43_jumps.md R92). -/

namespace Sys2Proof.Machine

/-- The effective address of a data operand: the operand itself, an absolute address (R27, R48). -/
def dataAddress (operand : Nibble) : Addr := operand

/-- The data byte an address operand names, `MEM[operand]` (R48). -/
def State.dataOperand (s : State) (operand : Nibble) : Byte := s.memRead (dataAddress operand)

/-- The literal of LDI: the operand zero-extended to 8 bits (R47). -/
def literalOf (operand : Nibble) : Byte := operand.setWidth 8

/-- The target of a jump: the operand itself, an absolute instruction address (R48, R92). -/
def jumpTarget (operand : Nibble) : Addr := operand

end Sys2Proof.Machine
end

