-- ==== Sys2Proof/Machine/Flags.lean ====
section
/-! DEFINITION. The 8-bit ALU and its flags (spec/42_arithmetic.md R86 to R89): each operation on the unbounded
values, narrowed at the end. The flags are outputs and never inputs (R89). -/

namespace Sys2Proof.Machine

/-- What the ALU gives: the 8-bit result, carry or borrow, and zero. -/
structure AluOut where
  result : Byte
  carry : Bool
  zero : Bool
  deriving DecidableEq, Repr

/-- The zero flag: exactly when the 8-bit result is 0 (R88). -/
def zeroOf (result : Byte) : Bool := decide (result = 0#8)

/-- Add: the sum modulo 256, carry exactly when the true sum exceeds 255 (R86, R87). -/
def aluAdd (a m : Byte) : AluOut :=
  let sum := a.toNat + m.toNat
  let result := BitVec.ofNat 8 sum
  ⟨result, decide (255 < sum), zeroOf result⟩

/-- Subtract: the difference modulo 256, carry a borrow flag, true exactly when `m > a` (R86, R87). -/
def aluSub (a m : Byte) : AluOut :=
  let difference : Int := (a.toNat : Int) - (m.toNat : Int)
  let result := BitVec.ofInt 8 difference
  ⟨result, decide (a.toNat < m.toNat), zeroOf result⟩

/-- Write an ALU output back: the result to `A`, and both flags, whatever they were (R86, R89). -/
def State.writeAlu (s : State) (r : AluOut) : State := (s.setA r.result).setFlags r.zero r.carry

end Sys2Proof.Machine
end

