-- ==== Sys2Proof/Machine/Arithmetic.lean ====
section
/-! DEFINITION. ADD and SUB (spec/42_arithmetic.md R90, R91). -/

namespace Sys2Proof.Machine

/-- ADD's transition function: `A`, `C` and `Z` from `A + MEM[operand]` (R90). -/
def addEffect (address : Addr) (s : State) : Executed := (s.writeAlu (aluAdd s.a (s.dataOperand address))).proceed

/-- ADD (R90). -/
def execAdd (address : Addr) (s : State) : Host.Outcome State Fault Refusal := .next (addEffect address s).complete

/-- SUB's transition function: `A`, `C` and `Z` from `A - MEM[operand]` (R91). -/
def subEffect (address : Addr) (s : State) : Executed := (s.writeAlu (aluSub s.a (s.dataOperand address))).proceed

/-- SUB (R91). -/
def execSub (address : Addr) (s : State) : Host.Outcome State Fault Refusal := .next (subEffect address s).complete

end Sys2Proof.Machine
end

