-- ==== Sys2Proof/Machine/DataMovement.lean ====
section
/-! DEFINITION. LDA, STR and LDI (spec/41_data_movement.md R83 to R85). -/

namespace Sys2Proof.Machine

/-- LDA's transition function: `A <- MEM[operand]` (R83). -/
def ldaEffect (address : Addr) (s : State) : Executed := (s.setA (s.dataOperand address)).proceed

/-- LDA (R83). -/
def execLda (address : Addr) (s : State) : Host.Outcome State Fault Refusal := .next (ldaEffect address s).complete

/-- STR's transition function: `MEM[operand] <- A` (R84). -/
def strEffect (address : Addr) (s : State) : Executed := (s.memWrite (dataAddress address) s.a).proceed

/-- STR (R84). -/
def execStr (address : Addr) (s : State) : Host.Outcome State Fault Refusal := .next (strEffect address s).complete

/-- LDI's transition function: `A <- zext_8(operand)`, no flag written (R85; conflict C6 and the spec's decision D8,
log entry 9). -/
def ldiEffect (literal : Nibble) (s : State) : Executed := (s.setA (literalOf literal)).proceed

/-- LDI (R85). -/
def execLdi (literal : Nibble) (s : State) : Host.Outcome State Fault Refusal := .next (ldiEffect literal s).complete

end Sys2Proof.Machine
end

