-- ==== Sys2Proof/Machine/Jumps.lean ====
section
/-! DEFINITION. JMP, JC and JZ (spec/43_jumps.md R92 to R96). -/

namespace Sys2Proof.Machine

/-- A jump under a condition: taken, it sets PC and asks for no advance; not taken, it writes nothing (R93). -/
def State.jumpIf (s : State) (condition : Bool) (target : Nibble) : Executed :=
  if condition then (s.setPc (jumpTarget target)).jumped else s.proceed

/-- JMP's transition function: `PC <- operand`, unconditionally (R94). -/
def jmpEffect (target : Addr) (s : State) : Executed := s.jumpIf true target

/-- JMP (R94). -/
def execJmp (target : Addr) (s : State) : Host.Outcome State Fault Refusal := .next (jmpEffect target s).complete

/-- JC's transition function: jump if `C` (R95). -/
def jcEffect (target : Addr) (s : State) : Executed := s.jumpIf s.c target

/-- JC (R95). -/
def execJc (target : Addr) (s : State) : Host.Outcome State Fault Refusal := .next (jcEffect target s).complete

/-- JZ's transition function: jump if `Z` (R96). -/
def jzEffect (target : Addr) (s : State) : Executed := s.jumpIf s.z target

/-- JZ (R96). -/
def execJz (target : Addr) (s : State) : Host.Outcome State Fault Refusal := .next (jzEffect target s).complete

end Sys2Proof.Machine
end

