-- ==== Sys2Proof/Machine/Reserved.lean ====
section
/-! DEFINITION. The reserved opcodes 9 to 13 (spec/30_encoding.md R50, spec/60_exceptions.md R101): fetching one raises
`UndefinedOpcode(PC, byte)`, and the step ends there. The byte is the row's own, which in a step is the byte fetched
(log entry 8). -/

namespace Sys2Proof.Machine

/-- The decode failure of a reserved opcode: the exception taken, execute, advance and halt check left out (R71). -/
def decodeFailure (opcode operand : Nibble) (s : State) : State := s.raiseUndefinedOpcode s.pc (packByte opcode operand)

/-- Reserved opcode 9 (R101). -/
def execReserved9 (ignored : Nibble) (s : State) : Host.Outcome State Fault Refusal := .next (decodeFailure 9#4 ignored s)

/-- Reserved opcode 10 (R101). -/
def execReserved10 (ignored : Nibble) (s : State) : Host.Outcome State Fault Refusal := .next (decodeFailure 10#4 ignored s)

/-- Reserved opcode 11 (R101). -/
def execReserved11 (ignored : Nibble) (s : State) : Host.Outcome State Fault Refusal := .next (decodeFailure 11#4 ignored s)

/-- Reserved opcode 12 (R101). -/
def execReserved12 (ignored : Nibble) (s : State) : Host.Outcome State Fault Refusal := .next (decodeFailure 12#4 ignored s)

/-- Reserved opcode 13 (R101). -/
def execReserved13 (ignored : Nibble) (s : State) : Host.Outcome State Fault Refusal := .next (decodeFailure 13#4 ignored s)

end Sys2Proof.Machine
end

