-- ==== Sys2Proof/Machine/System.lean ====
section
/-! DEFINITION. NOP, OUT and HLT (spec/44_system.md R97 to R99). All sixteen low nibbles of each behave alike
(R51). -/

namespace Sys2Proof.Machine

/-- NOP's transition function: no state change (R97). -/
def nopEffect (_ignored : Nibble) (s : State) : Executed := s.proceed

/-- NOP (R97). -/
def execNop (ignored : Nibble) (s : State) : Host.Outcome State Fault Refusal := .next (nopEffect ignored s).complete

/-- OUT's transition function: `OUT <- A` (R98). -/
def outEffect (_ignored : Nibble) (s : State) : Executed := (s.setOut s.a).proceed

/-- OUT (R98). -/
def execOut (ignored : Nibble) (s : State) : Host.Outcome State Fault Refusal := .next (outEffect ignored s).complete

/-- HLT's transition function: it requests the halt, and advances PC (R99; the spec's decision D3, UNVERIFIED, log
entry 3). -/
def hltEffect (_ignored : Nibble) (s : State) : Executed := s.requestHalt

/-- HLT (R99). -/
def execHlt (ignored : Nibble) (s : State) : Host.Outcome State Fault Refusal := .next (hltEffect ignored s).complete

end Sys2Proof.Machine
end

