-- ==== Sys2Proof/Machine/Dispatch.lean ====
section
/-! DEFINITION. The dispatcher: one arm per row of the opcode table (spec/30_encoding.md R55,
spec/40_fetch_decode_execute.md R72). -/

namespace Sys2Proof.Machine

/-- Execute, advance and halt check of a decoded row; for a reserved row, the decode failure (R71 to R76). -/
def exec (i : Instr) (s : State) : Host.Outcome State Fault Refusal :=
  match i with
  | .nop x => Sys2Proof.Machine.execNop x s
  | .lda addr => Sys2Proof.Machine.execLda addr s
  | .add addr => Sys2Proof.Machine.execAdd addr s
  | .sub addr => Sys2Proof.Machine.execSub addr s
  | .str addr => Sys2Proof.Machine.execStr addr s
  | .ldi lit => Sys2Proof.Machine.execLdi lit s
  | .jmp target => Sys2Proof.Machine.execJmp target s
  | .jc target => Sys2Proof.Machine.execJc target s
  | .jz target => Sys2Proof.Machine.execJz target s
  | .reserved9 x => Sys2Proof.Machine.execReserved9 x s
  | .reserved10 x => Sys2Proof.Machine.execReserved10 x s
  | .reserved11 x => Sys2Proof.Machine.execReserved11 x s
  | .reserved12 x => Sys2Proof.Machine.execReserved12 x s
  | .reserved13 x => Sys2Proof.Machine.execReserved13 x s
  | .out x => Sys2Proof.Machine.execOut x s
  | .hlt x => Sys2Proof.Machine.execHlt x s

end Sys2Proof.Machine
end

