-- ==== Sys2Proof/Machine/Step.lean ====
section
/-! DEFINITION. One tick (spec/40_fetch_decode_execute.md R67 to R80). -/

namespace Sys2Proof.Machine

/-- One tick: in RUNNING one instruction, fetched, decoded and executed; in HALTED and FAULTED nothing changes and no
fetch is made (R77, R79, R80). -/
def step (s : State) : Host.Outcome State Fault Refusal :=
  if s.isRunning then exec (decode s.fetch) s else .next s

/-- `s` with the instruction byte `w` where the next step fetches, and RUNNING, so that the next step runs it. -/
def State.withFetchWord (s : State) (nbits w : Nat) : State :=
  (s.memWrite s.pc (BitVec.ofNat 8 (w % 2 ^ nbits))).setStatus .running

end Sys2Proof.Machine
end

