-- ==== Sys2Proof/Laws/PerInstr.lean ====
section
/-! SUPPORT. A family of statements made per instruction: the encoding of each row has the row's fixed bits
(spec/30_encoding.md R49: mask 0xF0 and the row's match) and carries its operand in the low nibble (R43). -/

namespace Sys2Proof.Laws

/-- The `match` column of spec/opcode_table.json. -/
def TableRow.matchOf : Instr → Byte
  | .nop _ => 0x00#8
  | .lda _ => 0x10#8
  | .add _ => 0x20#8
  | .sub _ => 0x30#8
  | .str _ => 0x40#8
  | .ldi _ => 0x50#8
  | .jmp _ => 0x60#8
  | .jc _ => 0x70#8
  | .jz _ => 0x80#8
  | .reserved9 _ => 0x90#8
  | .reserved10 _ => 0xA0#8
  | .reserved11 _ => 0xB0#8
  | .reserved12 _ => 0xC0#8
  | .reserved13 _ => 0xD0#8
  | .out _ => 0xE0#8
  | .hlt _ => 0xF0#8

/-- An instruction's byte has its row's bits under the row's mask, and its operand under the other. -/
def TableRow.Statement (i : Instr) : Prop :=
  encode i &&& 0xF0#8 = TableRow.matchOf i ∧ encode i &&& 0x0F#8 = i.operand.setWidth 8

theorem TableRow.nop : ∀ x, TableRow.Statement (.nop x) := by unfold TableRow.Statement; decide
theorem TableRow.lda : ∀ x, TableRow.Statement (.lda x) := by unfold TableRow.Statement; decide
theorem TableRow.add : ∀ x, TableRow.Statement (.add x) := by unfold TableRow.Statement; decide
theorem TableRow.sub : ∀ x, TableRow.Statement (.sub x) := by unfold TableRow.Statement; decide
theorem TableRow.str : ∀ x, TableRow.Statement (.str x) := by unfold TableRow.Statement; decide
theorem TableRow.ldi : ∀ x, TableRow.Statement (.ldi x) := by unfold TableRow.Statement; decide
theorem TableRow.jmp : ∀ x, TableRow.Statement (.jmp x) := by unfold TableRow.Statement; decide
theorem TableRow.jc : ∀ x, TableRow.Statement (.jc x) := by unfold TableRow.Statement; decide
theorem TableRow.jz : ∀ x, TableRow.Statement (.jz x) := by unfold TableRow.Statement; decide
theorem TableRow.reserved9 : ∀ x, TableRow.Statement (.reserved9 x) := by unfold TableRow.Statement; decide
theorem TableRow.reserved10 : ∀ x, TableRow.Statement (.reserved10 x) := by unfold TableRow.Statement; decide
theorem TableRow.reserved11 : ∀ x, TableRow.Statement (.reserved11 x) := by unfold TableRow.Statement; decide
theorem TableRow.reserved12 : ∀ x, TableRow.Statement (.reserved12 x) := by unfold TableRow.Statement; decide
theorem TableRow.reserved13 : ∀ x, TableRow.Statement (.reserved13 x) := by unfold TableRow.Statement; decide
theorem TableRow.out : ∀ x, TableRow.Statement (.out x) := by unfold TableRow.Statement; decide
theorem TableRow.hlt : ∀ x, TableRow.Statement (.hlt x) := by unfold TableRow.Statement; decide

end Sys2Proof.Laws
end

