-- ==== Sys2Proof/Machine/IsaTable.lean ====
section
/-! DEFINITION. The ISA table (spec/10_state.md R20, spec/30_encoding.md R46, R49, R55): a constant, consulted by
opcode value in the core and by mnemonic in the assembler. -/

namespace Sys2Proof

/-- How an opcode uses its operand field (R46). -/
inductive OperandKind where
  | none
  | address
  | literal
  deriving DecidableEq, Repr

/-- The "operand-required flag" of a descriptor: true for `address` and `literal` (R46). -/
def OperandKind.required : OperandKind → Bool
  | .none => false
  | .address | .literal => true

/-- An OpCode descriptor (R55). Its execution semantics is the transition function that `Sys2Proof.Machine.exec`
calls for the instruction. -/
structure Descriptor where
  opcode : Nibble
  mnemonic : List Char
  operandKind : OperandKind
  deriving DecidableEq, Repr

/-- The eleven descriptors in the order of the source's table (R49). The opcodes 9 to 13 hold none (R50). -/
def isaTable : List Descriptor :=
  [ ⟨0#4, ['N', 'O', 'P'], .none⟩,
    ⟨1#4, ['L', 'D', 'A'], .address⟩,
    ⟨2#4, ['A', 'D', 'D'], .address⟩,
    ⟨3#4, ['S', 'U', 'B'], .address⟩,
    ⟨4#4, ['S', 'T', 'R'], .address⟩,
    ⟨5#4, ['L', 'D', 'I'], .literal⟩,
    ⟨6#4, ['J', 'M', 'P'], .address⟩,
    ⟨7#4, ['J', 'C'], .address⟩,
    ⟨8#4, ['J', 'Z'], .address⟩,
    ⟨14#4, ['O', 'U', 'T'], .none⟩,
    ⟨15#4, ['H', 'L', 'T'], .none⟩ ]

/-- Lookup by opcode value: the hardware decoder's direction (R55). -/
def descriptorOf (opcode : Nibble) : Option Descriptor := isaTable.find? (·.opcode == opcode)

/-- Lookup by mnemonic, matched exactly and case-sensitively: the assembler's direction (R55, R57). -/
def descriptorNamed (mnemonic : List Char) : Option Descriptor := isaTable.find? (·.mnemonic == mnemonic)

end Sys2Proof
end

