-- ==== Sys2Proof/Machine/Loader.lean ====
section
/-! DEFINITION. Reset with an IMAGE and the loader contract (spec/70_reset_and_hazards.md R117 to R122). -/

namespace Sys2Proof.Machine

/-- `IMAGE`, the one open parameter: the sixteen bytes of memory at reset (R8). -/
abbrev Image := Vector Byte 16

/-- `IMAGE[addr]`. -/
def imageByte (image : Image) (addr : Addr) : Byte := image.get addr.toFin

/-- The loader: a binary file's bytes from address 0, truncated or zero-padded to sixteen (R66, R120). -/
def imageOfFile (file : List Byte) : Image := Vector.ofFn fun i => file.getD i.val 0#8

/-- The sixteen addresses. -/
def allAddresses : List Addr := (List.range Config.memSize).map (BitVec.ofNat 4)

/-- Memory with the image's byte written at each of some addresses, and nothing else listed. -/
def Memory.fill (image : Image) : List Addr → Memory
  | [] => []
  | addr :: rest => Memory.write (Memory.fill image rest) addr (imageByte image addr)

/-- `MEM[a] = IMAGE[a]` for every a in 0..15 (R117). -/
def Memory.ofImage (image : Image) : Memory := Memory.fill image allAddresses

/-- Reset: the state of R25 with `MEM` the given `IMAGE`, whatever the state before (R117, R122). -/
def State.resetWith (image : Image) : State := { State.reset with mem := Memory.ofImage image }

/-- Reset with the IMAGE the loader makes of a binary file (R120). -/
def State.load (file : List Byte) : State := State.resetWith (imageOfFile file)

end Sys2Proof.Machine
end

