-- ==== Sys2Proof/Machine/Assembler.lean ====
section
/-! DEFINITION. The assembler (spec/30_encoding.md R57 to R66): toolchain behaviour, not hardware (R4). Source text is
lists of characters, one list a line. -/

namespace Sys2Proof.Machine

/-- The white space trimmed from a line: space, tab, carriage return and line feed (DESIGN CHOICE, log entry 13). -/
def isSpace (c : Char) : Bool := c == ' ' || c == '\t' || c == '\r' || c == '\n'

/-- Surrounding white space removed (R58). -/
def trim (line : List Char) : List Char := ((line.dropWhile isSpace).reverse.dropWhile isSpace).reverse

/-- The text from the first `;` on discarded (R58). -/
def stripComment (line : List Char) : List Char := line.takeWhile (· != ';')

/-- What is left of a line once comment and surrounding white space are gone (R58, step a). -/
def codeText (line : List Char) : List Char := trim (stripComment line)

/-- The text before the first space (R58, step b). -/
def codeToken (text : List Char) : List Char := text.takeWhile (· != ' ')

/-- The text after the first space, empty if there is none (R58, step b). -/
def operandToken (text : List Char) : List Char := (text.dropWhile (· != ' ')).drop 1

/-- Whether a character is a decimal digit (R57). -/
def isDecimalDigit (c : Char) : Bool := decide ('0'.toNat ≤ c.toNat) && decide (c.toNat ≤ '9'.toNat)

/-- The value of a string of decimal digits. -/
def decimalValue (token : List Char) : Nat := token.foldl (fun n c => 10 * n + (c.toNat - '0'.toNat)) 0

/-- A token is parsable when it is one or more decimal digits of value at most 255 (R61; the spec's decision D17, log
entry 12). -/
def parseByte (token : List Char) : Option Byte :=
  if !token.isEmpty && token.all isDecimalDigit && decide (decimalValue token ≤ 255) then
    some (BitVec.ofNat 8 (decimalValue token))
  else none

/-- The byte of an instruction line, none on a parse failure: a zero low nibble for an empty operand token, else the
operand masked to 4 bits (R59, R65; the spec's decision D16, log entry 12). -/
def assembleInstruction (d : Descriptor) (operand : List Char) : Option Byte :=
  if operand.isEmpty then some (packByte d.opcode 0#4)
  else (parseByte operand).map fun v => packByte d.opcode (operandOf v)

/-- The byte of a line, none on a parse failure: an instruction line if the code token is a mnemonic, else a raw data
line (R58 to R60). -/
def assembleLine? (line : List Char) : Option Byte :=
  match descriptorNamed (codeToken (codeText line)) with
  | some d => assembleInstruction d (operandToken (codeText line))
  | none => parseByte (codeText line)

/-- The byte of a line: 0 where a number does not parse (R61, R62). -/
def assembleLine (line : List Char) : Byte := (assembleLine? line).getD 0#8

/-- The assembled program: one byte per line, line N becoming memory address N (R58, R63). -/
def assemble (lines : List (List Char)) : List Byte := lines.map assembleLine

/-- How many lines had a parse failure (R61, U5 of spec/93_implementation_defined.md; DESIGN CHOICE, log entry 14: a
blank line counts, since R62 makes its byte a parse failure's). -/
def parseFailures (lines : List (List Char)) : Nat := lines.countP fun line => (assembleLine? line).isNone

/-- The assembler on strings. -/
def assembleText (lines : List String) : List Byte := assemble (lines.map String.toList)

/-- Reset with an assembled program as the binary file (R66, R120). -/
def State.loadProgram (lines : List (List Char)) : State := State.load (assemble lines)

/-- The digit of a value 0 to 9. -/
def digitChar (n : Nat) : Char := Char.ofNat ('0'.toNat + n)

/-- A value 0 to 255 in decimal, without leading zeros. -/
def decimal (n : Nat) : List Char :=
  if n < 10 then [digitChar n]
  else if n < 100 then [digitChar (n / 10), digitChar (n % 10)]
  else [digitChar (n / 100), digitChar (n / 10 % 10), digitChar (n % 10)]

/-- The source line of a mnemonic and an operand value: exactly one space between them (R57). -/
def sourceLine (d : Descriptor) (value : Nat) : List Char := d.mnemonic ++ ' ' :: decimal value

/-- How the spec prints a byte (the end of spec/30_encoding.md; N11): a defined opcode as its mnemonic, with the operand
in decimal for the address and literal kinds, a reserved byte as its decimal value. -/
def disassemble (b : Byte) : List Char :=
  match descriptorOf (opcodeOf b) with
  | some d => if d.operandKind.required then sourceLine d (operandOf b).toNat else d.mnemonic
  | none => decimal b.toNat

end Sys2Proof.Machine
end

