-- ==== Sys2Proof/Machine/Datapath.lean ====
section
/-! DEFINITION. The dispatch table as control signals, and the datapath they drive (spec/30_encoding.md R56). A second
description of the machine: the instructions' meanings govern, and an obligation states that the two agree. -/

namespace Sys2Proof.Machine

/-- What is written to `A` (R56, column `a_src`). -/
inductive ASource where
  | mem
  | lit
  | alu
  deriving DecidableEq, Repr

/-- The operation of the ALU (R56, column `alu_op`). -/
inductive AluOp where
  | add
  | sub
  deriving DecidableEq, Repr

/-- When `PC <- operand` (R56, column `jump`). -/
inductive JumpWhen where
  | never
  | always
  | ifC
  | ifZ
  deriving DecidableEq, Repr

/-- One row of R56. The columns the row leaves blank hold no signal: `none`. -/
structure Control where
  valid : Bool
  opreq : Option Bool
  memRd : Bool
  memWr : Bool
  aWe : Bool
  aSrc : Option ASource
  aluOp : Option AluOp
  flagsWe : Bool
  outWe : Bool
  jump : JumpWhen
  halt : Bool
  deriving DecidableEq, Repr

/-- The table of R56 by opcode. The column `halt` of the reserved row reads 'fault': with `valid` false the step
faults, and `halt` is not looked at. -/
def controlOf (opcode : Nibble) : Control :=
  match opcode with
  | 0#4 => ⟨true, some false, false, false, false, none, none, false, false, .never, false⟩
  | 1#4 => ⟨true, some true, true, false, true, some .mem, none, false, false, .never, false⟩
  | 2#4 => ⟨true, some true, true, false, true, some .alu, some .add, true, false, .never, false⟩
  | 3#4 => ⟨true, some true, true, false, true, some .alu, some .sub, true, false, .never, false⟩
  | 4#4 => ⟨true, some true, false, true, false, none, none, false, false, .never, false⟩
  | 5#4 => ⟨true, some true, false, false, true, some .lit, none, false, false, .never, false⟩
  | 6#4 => ⟨true, some true, false, false, false, none, none, false, false, .always, false⟩
  | 7#4 => ⟨true, some true, false, false, false, none, none, false, false, .ifC, false⟩
  | 8#4 => ⟨true, some true, false, false, false, none, none, false, false, .ifZ, false⟩
  | 14#4 => ⟨true, some false, false, false, false, none, none, false, true, .never, false⟩
  | 15#4 => ⟨true, some false, false, false, false, none, none, false, false, .never, true⟩
  | _ => ⟨false, none, false, false, false, none, none, false, false, .never, false⟩  -- 9 to 13

/-- Whether a jump is taken, on the flags from before the step. -/
def JumpWhen.taken (j : JumpWhen) (z c : Bool) : Bool :=
  match j with
  | .never => false
  | .always => true
  | .ifC => c
  | .ifZ => z

/-- The ALU's output for the operation selected; none selected, the output goes nowhere. -/
def AluOp.run (op : Option AluOp) (a m : Byte) : AluOut :=
  match op with
  | some .sub => aluSub a m
  | some .add | none => aluAdd a m

/-- One step of a running machine through the control signals: every register and the memory written under its own
write enable, from values read before the step. -/
def datapathStep (s : State) : State :=
  let instruction := s.fetch
  let operand := operandOf instruction
  let k := controlOf (opcodeOf instruction)
  let m : Byte := if k.memRd then s.memRead operand else 0#8
  let alu := AluOp.run k.aluOp s.a m
  let aIn : Byte := match k.aSrc with
    | some .mem => m
    | some .lit => operand.setWidth 8
    | some .alu => alu.result
    | none => s.a
  let taken := k.jump.taken s.z s.c
  if k.valid then
    { a := if k.aWe then aIn else s.a
      out := if k.outWe then s.a else s.out
      z := if k.flagsWe then alu.zero else s.z
      c := if k.flagsWe then alu.carry else s.c
      pc := if taken then operand else nextPc s.pc
      mem := if k.memWr then Memory.write s.mem operand s.a else s.mem
      status := if k.halt then .halted else s.status
      faultAddr := s.faultAddr
      faultByte := s.faultByte }
  else { s with faultAddr := s.pc, faultByte := instruction, status := .faulted }

end Sys2Proof.Machine
end

