-- ==== Sys2Proof/Machine/Reference.lean ====
section
/-! DEFINITION. Second transcriptions that statements compare the model with: the opcode map of spec/30_encoding.md R49
with the operand uses of R46, and the step function of the listing of spec/40_fetch_decode_execute.md R80, in which
fields are numbers. The ISA table and the meanings govern; obligations state that they agree with these. -/

namespace Sys2Proof.Machine

/-- One defined row of the opcode map: mnemonic, opcode, how the operand is used, and the operand-required flag. -/
structure OpcodeMapRow where
  mnemonic : List Char
  opcode : Nibble
  operandKind : OperandKind
  operandRequired : Bool
  deriving DecidableEq, Repr

/-- The eleven defined rows of R49's table, with the flag of R46. -/
def opcodeMap : List OpcodeMapRow :=
  [ ⟨['N', 'O', 'P'], 0b0000#4, .none, false⟩,
    ⟨['L', 'D', 'A'], 0b0001#4, .address, true⟩,
    ⟨['A', 'D', 'D'], 0b0010#4, .address, true⟩,
    ⟨['S', 'U', 'B'], 0b0011#4, .address, true⟩,
    ⟨['S', 'T', 'R'], 0b0100#4, .address, true⟩,
    ⟨['L', 'D', 'I'], 0b0101#4, .literal, true⟩,
    ⟨['J', 'M', 'P'], 0b0110#4, .address, true⟩,
    ⟨['J', 'C'], 0b0111#4, .address, true⟩,
    ⟨['J', 'Z'], 0b1000#4, .address, true⟩,
    ⟨['O', 'U', 'T'], 0b1110#4, .none, false⟩,
    ⟨['H', 'L', 'T'], 0b1111#4, .none, false⟩ ]

/-- The `case opcode of` of the listing: the state, `haltRequested` and `advancePC` after execute. -/
def referenceExecute (s : State) (opcode : Nat) (operand : Addr) : State × Bool × Bool :=
  let m := Memory.read s.mem operand
  let sum := s.a.toNat + m.toNat
  let difference := (s.a.toNat : Int) - m.toNat
  match opcode with
  | 0 => (s, false, true)
  | 1 => ({ s with a := m }, false, true)
  | 2 =>
    ({ s with a := BitVec.ofNat 8 (sum % 256), c := decide (sum > 255), z := decide (sum % 256 = 0) }, false, true)
  | 3 =>
    ({ s with a := BitVec.ofNat 8 (difference % 256).toNat, c := decide (m.toNat > s.a.toNat),
              z := decide (difference % 256 = 0) }, false, true)
  | 4 => ({ s with mem := Memory.write s.mem operand s.a }, false, true)
  | 5 => ({ s with a := BitVec.ofNat 8 operand.toNat }, false, true)
  | 6 => ({ s with pc := operand }, false, false)
  | 7 => if s.c then ({ s with pc := operand }, false, false) else (s, false, true)
  | 8 => if s.z then ({ s with pc := operand }, false, false) else (s, false, true)
  | 14 => ({ s with out := s.a }, false, true)
  | 15 => (s, true, true)
  | _ => (s, false, true)  -- 9 to 13 do not come here

/-- `step(S)` of R80. -/
def referenceStep (s : State) : State :=
  if s.status ≠ .running then s
  else
    let instruction := Memory.read s.mem s.pc
    let opcode := instruction.toNat / 16
    let operand := BitVec.ofNat 4 (instruction.toNat % 16)
    if 9 ≤ opcode ∧ opcode ≤ 13 then
      { s with faultAddr := s.pc, faultByte := instruction, status := .faulted }
    else
      let (executed, haltRequested, advancePC) := referenceExecute s opcode operand
      let advanced :=
        if advancePC then { executed with pc := BitVec.ofNat 4 ((executed.pc.toNat + 1) % 16) } else executed
      if haltRequested then { advanced with status := .halted } else advanced

end Sys2Proof.Machine
end

