-- ==== Sys2Proof/Machine/Events.lean ====
section
/-! DEFINITION. The interface to the outside world (spec/70_reset_and_hazards.md R122, R128, spec/60_exceptions.md
R114): what it may do to the core, and what it sees between steps. -/

namespace Sys2Proof.Machine

/-- The two things the outside world may do (R128). -/
inductive Event where
  /-- A tick, an event with no data (R79, R104). -/
  | tick
  /-- Reset with `IMAGE`, allowed at any time and in any STATUS (R122). -/
  | reset (image : Image)
  deriving DecidableEq, Repr

/-- What the core does on an event; nothing else writes the state (R22, R41). -/
def State.react (s : State) : Event → Host.Outcome State Fault Refusal
  | .tick => step s
  | .reset image => .next (State.resetWith image)

/-- What the core does on a sequence of events, stopping at the first fault or refusal. -/
def State.reactAll (s : State) : List Event → Host.Outcome State Fault Refusal
  | [] => .next s
  | e :: rest =>
    match s.react e with
    | .next t => t.reactAll rest
    | .fault r => .fault r
    | .refused r => .refused r

/-- Everything the outside world can learn, between steps (R114, R128). -/
structure View where
  a : Byte
  out : Byte
  z : Bool
  c : Bool
  pc : Byte
  mem : List Byte
  halted : Bool
  status : Status
  diagnostic : Option Fault
  deriving DecidableEq, Repr

/-- The read-only view of a state: `OUT` as a level, the run state, with the renderer's "halted-state" true of HALTED
alone (R108), the fault diagnostic, valid while FAULTED (R116), and the state view. -/
def State.view (s : State) : View where
  a := s.a
  out := s.out
  z := s.z
  c := s.c
  pc := s.pcRegister
  mem := Memory.bytes s.mem
  halted := decide (s.status = .halted)
  status := s.status
  diagnostic := s.cause?

end Sys2Proof.Machine
end

