-- ==== Sys2Proof/Safety.lean ====
section
/-! DEFINITION. What claims are stated in: the invariants of spec/10_state.md R23, how a run ends
(spec/40_fetch_decode_execute.md R81), and a safe outcome. -/

namespace Sys2Proof.Machine

/-- Whether a byte's opcode is reserved, 9 to 13 (R50). -/
def isReservedByte (b : Byte) : Bool := decide (9 ≤ (opcodeOf b).toNat) && decide ((opcodeOf b).toNat ≤ 13)

/-- The invariants of R23 that the types do not already give, with the canonical form of memory. -/
structure State.Inv (s : State) : Prop where
  memWf : Memory.wf s.mem = true
  noFaultRecord : s.status ≠ .faulted → s.faultAddr = 0#4 ∧ s.faultByte = 0#8
  faultRecord : s.status = .faulted →
    s.faultByte = s.memRead s.faultAddr ∧ s.pc = s.faultAddr ∧ isReservedByte s.faultByte = true

/-- A run has ended: STATUS is not RUNNING (R81). -/
abbrev State.Ended (s : State) : Prop := s.status ≠ .running

/-- The normal end of a run, HLT (R81). -/
abbrev State.EndedNormally (s : State) : Prop := s.status = .halted

/-- The error end of a run, which must not be treated as a halt (R81, R108). -/
abbrev State.EndedInError (s : State) : Prop := s.status = .faulted

/-- A safe outcome of a step: a next state that is not FAULTED (R108). -/
def SafeOutcome : Host.Outcome State Fault Refusal → Prop
  | .next t => ¬t.EndedInError
  | .fault _ => False
  | .refused _ => False

end Sys2Proof.Machine
end

