-- ==== Sys2Proof/Certificates/Slice0/Obligations.lean ====
section
/-! DEFINITION. The statements for the provers, from the numbered rules of spec/. Where a clause rests on a decision
the spec marks as its own (spec/92_eei_decisions.md), the docstring names the decision and the log entry. -/

open Sys2Proof Sys2Proof.Machine

/-! ## Encoding -/

/-- Decoding an encoded row gives it back, every row and every operand, and leaves the bytes after it (R42, R45). -/
def Obligations.DecodeOfEncodeGivesTheInstruction : Prop :=
  ∀ i : Instr, decode (encode i) = i ∧ ∀ rest : List Byte, decodeBytes (encodeBytes i ++ rest) = .ok (i, rest)

/-- Encoding what a byte decodes to gives the byte back: no bit is dropped, the ignored nibbles included (R45). -/
def Obligations.EncodeOfDecodeGivesTheByte : Prop :=
  ∀ b : Byte, encode (decode b) = b

/-- R45: the byte of opcode k and operand o is k * 16 + o, which is (k << 4) | o; splitting it gives k and o; every byte
is put together again from its halves; and the source's invariant decode(assemble(m, o)) = (opcode_of(m), o), for the
model's own table and for the mnemonics and opcodes written out from R49 (`opcodeMap`). -/
def Obligations.FieldsRoundTrip : Prop :=
  (∀ k o : Nibble, (packByte k o).toNat = k.toNat * 16 + o.toNat
    ∧ packByte k o = ((k.setWidth 8 : Byte) <<< 4) ||| o.setWidth 8
    ∧ opcodeOf (packByte k o) = k ∧ operandOf (packByte k o) = o)
  ∧ (∀ b : Byte, packByte (opcodeOf b) (operandOf b) = b)
  ∧ (∀ i : Instr, encode i = packByte i.opcode i.operand)
  ∧ (∀ d ∈ isaTable, ∀ o : Nibble,
      opcodeOf (assembleLine (sourceLine d o.toNat)) = d.opcode
      ∧ operandOf (assembleLine (sourceLine d o.toNat)) = o)
  ∧ ∀ row ∈ opcodeMap, ∀ o : Nibble,
      opcodeOf (assembleLine (row.mnemonic ++ ' ' :: decimal o.toNat)) = row.opcode
      ∧ operandOf (assembleLine (row.mnemonic ++ ' ' :: decimal o.toNat)) = o

/-- R44: the opcode is b >> 4, the floor of b / 16, the operand b & 0x0F, b mod 16, the same for every opcode. -/
def Obligations.DecoderSplitsTheByte : Prop :=
  ∀ b : Byte,
    (opcodeOf b).setWidth 8 = b >>> 4 ∧ (opcodeOf b).toNat = b.toNat / 16
    ∧ (operandOf b).setWidth 8 = b &&& 0x0F#8 ∧ (operandOf b).toNat = b.toNat % 16
    ∧ (decode b).opcode = opcodeOf b ∧ (decode b).operand = operandOf b

/-- Words written out from R49 decode to what they stand for (spec/95_test_vectors.md, table 2.1). -/
def Obligations.SomeWordsDecodeAsTheSpecSays : Prop :=
  decode 0b00001111#8 = .nop 15#4 ∧ decode 0b00011010#8 = .lda 10#4 ∧ decode 0b00101111#8 = .add 15#4
  ∧ decode 0b00110110#8 = .sub 6#4 ∧ decode 0b01001010#8 = .str 10#4 ∧ decode 0b01011111#8 = .ldi 15#4
  ∧ decode 0b01100001#8 = .jmp 1#4 ∧ decode 0b01110101#8 = .jc 5#4 ∧ decode 0b10001111#8 = .jz 15#4
  ∧ decode 0b10011111#8 = .reserved9 15#4 ∧ decode 0b11011111#8 = .reserved13 15#4
  ∧ decode 0b11100111#8 = .out 7#4 ∧ decode 0b11110000#8 = .hlt 0#4

/-- Twelve outcomes (R53): a byte outside 0x90 to 0xDF decodes to one of the eleven instructions of R49's table
(`opcodeMap`), whose descriptor the opcode finds, a byte inside is refused as undefined (R50); 176 bytes of the one kind
and 80 of the other (R52, an inference the spec marks as its own). -/
def Obligations.DecoderPartitionsTheBytes : Prop :=
  (∀ b : Byte, (b.toNat < 144 ∨ 224 ≤ b.toNat) →
    decodeInstr b = .ok (decode b) ∧ (decode b).wf = true
    ∧ ∃ row ∈ opcodeMap, row.opcode = opcodeOf b
      ∧ descriptorOf (opcodeOf b) = some ⟨row.opcode, row.mnemonic, row.operandKind⟩)
  ∧ (∀ b : Byte, 144 ≤ b.toNat → b.toNat < 224 →
    decodeInstr b = .error (.undefinedOpcode b) ∧ (decode b).wf = false ∧ descriptorOf (opcodeOf b) = none)
  ∧ (List.range 256).countP (fun n => (decode (BitVec.ofNat 8 n)).wf) = 176
  ∧ (List.range 256).countP (fun n => !(decode (BitVec.ofNat 8 n)).wf) = 80

/-- Every row's encoding has the fixed bits the opcode table gives the row, and carries its operand (R43, R49). -/
def Obligations.EveryRowHasItsTableBits : Prop :=
  ∀ i : Instr, Laws.TableRow.Statement i

/-- The descriptor of each of the eleven instructions is the row R49 gives it, found by its opcode and by its mnemonic,
with the operand kind of R46; the operand-required flag is true for the address and literal kinds and false for none; no
reserved opcode has a descriptor; and the ISA table holds the eleven rows written out from R49 and R46, in order. -/
def Obligations.IsaTableIsTheOpcodeMap : Prop :=
  (∀ x : Nibble,
    descriptorOf (Instr.nop x).opcode = some ⟨0#4, ['N', 'O', 'P'], .none⟩
    ∧ descriptorOf (Instr.lda x).opcode = some ⟨1#4, ['L', 'D', 'A'], .address⟩
    ∧ descriptorOf (Instr.add x).opcode = some ⟨2#4, ['A', 'D', 'D'], .address⟩
    ∧ descriptorOf (Instr.sub x).opcode = some ⟨3#4, ['S', 'U', 'B'], .address⟩
    ∧ descriptorOf (Instr.str x).opcode = some ⟨4#4, ['S', 'T', 'R'], .address⟩
    ∧ descriptorOf (Instr.ldi x).opcode = some ⟨5#4, ['L', 'D', 'I'], .literal⟩
    ∧ descriptorOf (Instr.jmp x).opcode = some ⟨6#4, ['J', 'M', 'P'], .address⟩
    ∧ descriptorOf (Instr.jc x).opcode = some ⟨7#4, ['J', 'C'], .address⟩
    ∧ descriptorOf (Instr.jz x).opcode = some ⟨8#4, ['J', 'Z'], .address⟩
    ∧ descriptorOf (Instr.out x).opcode = some ⟨14#4, ['O', 'U', 'T'], .none⟩
    ∧ descriptorOf (Instr.hlt x).opcode = some ⟨15#4, ['H', 'L', 'T'], .none⟩
    ∧ descriptorOf (Instr.reserved9 x).opcode = none ∧ descriptorOf (Instr.reserved10 x).opcode = none
    ∧ descriptorOf (Instr.reserved11 x).opcode = none ∧ descriptorOf (Instr.reserved12 x).opcode = none
    ∧ descriptorOf (Instr.reserved13 x).opcode = none)
  ∧ (OperandKind.none.required = false ∧ OperandKind.address.required = true ∧ OperandKind.literal.required = true)
  ∧ isaTable.map (fun d => (⟨d.mnemonic, d.opcode, d.operandKind, d.operandKind.required⟩ : OpcodeMapRow)) = opcodeMap
  ∧ ∀ row ∈ opcodeMap, descriptorNamed row.mnemonic = some ⟨row.opcode, row.mnemonic, row.operandKind⟩
      ∧ descriptorOf row.opcode = some ⟨row.opcode, row.mnemonic, row.operandKind⟩

/-- R51: NOP, OUT and HLT ignore their operand. All sixteen bytes of each decode to it and act alike in every state; the
assembler emits a zero low nibble for the bare mnemonic, and packs an operand written after it. -/
def Obligations.IgnoredNibbleChangesNothing : Prop :=
  (∀ x : Nibble, decode (packByte 0#4 x) = .nop x ∧ decode (packByte 14#4 x) = .out x
    ∧ decode (packByte 15#4 x) = .hlt x)
  ∧ (∀ (x y : Nibble) (s : State),
      exec (.nop x) s = exec (.nop y) s ∧ exec (.out x) s = exec (.out y) s ∧ exec (.hlt x) s = exec (.hlt y) s)
  ∧ assembleLine ['N', 'O', 'P'] = 0x00#8 ∧ assembleLine ['O', 'U', 'T'] = 0xE0#8
  ∧ assembleLine ['H', 'L', 'T'] = 0xF0#8 ∧ assembleLine ['O', 'U', 'T', ' ', '5'] = 0xE5#8

/-! ## The instructions: each rule's encoding, its next state in every state, and by it the frame

A next state is written as the old one with the fields the rule names replaced: every other field is unchanged. The
advance `(PC + 1) mod 16` stands in each rule's own pseudocode; that 15 goes to 0 is the spec's decision D1, which the
source recommends (R74; log entry 1). -/

/-- R97: NOP changes nothing but the program counter, which advances modulo 16. -/
def Obligations.NopChangesOnlyThePc : Prop :=
  ∀ (x : Nibble) (s : State), decode (0b0000#4 ++ x) = .nop x
    ∧ exec (.nop x) s = .next { s with pc := BitVec.ofNat 4 ((s.pc.toNat + 1) % 16) }
    ∧ (nopEffect x s).haltRequested = false ∧ (nopEffect x s).advancePC = true

/-- R83: LDA loads A with the byte at the operand address; flags, memory and OUT are kept and the PC advances modulo
16. -/
def Obligations.LdaLoadsTheByte : Prop :=
  ∀ (n : Addr) (s : State), decode (0b0001#4 ++ n) = .lda n
    ∧ exec (.lda n) s = .next { s with a := s.memRead n, pc := BitVec.ofNat 4 ((s.pc.toNat + 1) % 16) }

/-- R84: STR stores A at the operand address, and every other byte of memory, A and the flags are kept; the PC advances
modulo 16. -/
def Obligations.StrStoresTheAccumulator : Prop :=
  ∀ (n : Addr) (s : State), decode (0b0100#4 ++ n) = .str n
    ∧ ∃ t, exec (.str n) s = .next t
      ∧ t = { s with mem := Memory.write s.mem n s.a, pc := BitVec.ofNat 4 ((s.pc.toNat + 1) % 16) }
      ∧ t.memRead n = s.a ∧ ∀ k : Addr, k ≠ n → t.memRead k = s.memRead k

/-- LDI loads A with the operand zero-extended, 0..15 (R47); the PC advances modulo 16. That no flag changes is the spec's
decision D8 on conflict C6 (log entry 9). -/
def Obligations.LdiLoadsTheLiteral : Prop :=
  ∀ (o : Nibble) (s : State), decode (0b0101#4 ++ o) = .ldi o
    ∧ exec (.ldi o) s =
        .next { s with a := BitVec.ofNat 8 o.toNat, pc := BitVec.ofNat 4 ((s.pc.toNat + 1) % 16) }

/-- ADD writes the sum modulo 256, C on unsigned overflow and Z on a zero result, both assigned, and nothing else but the
advancing PC (the ADD section of spec/42_arithmetic.md). That C is cleared without overflow is the spec's decision D7, and
that it is not added in D9 (log entry 9). -/
def Obligations.AddWritesSumAndFlags : Prop :=
  ∀ (n : Addr) (s : State), decode (0b0010#4 ++ n) = .add n
    ∧ exec (.add n) s = .next { s with
        a := BitVec.ofNat 8 ((s.a.toNat + (s.memRead n).toNat) % 256)
        c := decide (s.a.toNat + (s.memRead n).toNat > 255)
        z := decide ((s.a.toNat + (s.memRead n).toNat) % 256 = 0)
        pc := BitVec.ofNat 4 ((s.pc.toNat + 1) % 16) }

/-- SUB writes the difference modulo 256, C on a borrow and Z on a zero result, both assigned, and nothing else but the
advancing PC (the SUB section of spec/42_arithmetic.md). That C is cleared without borrow is the spec's decision D7, and
that it is not subtracted D9 (log entry 9). -/
def Obligations.SubWritesDifferenceAndFlags : Prop :=
  ∀ (n : Addr) (s : State), decode (0b0011#4 ++ n) = .sub n
    ∧ exec (.sub n) s = .next { s with
        a := BitVec.ofInt 8 (((s.a.toNat : Int) - (s.memRead n).toNat) % 256)
        c := decide ((s.memRead n).toNat > s.a.toNat)
        z := decide (((s.a.toNat : Int) - (s.memRead n).toNat) % 256 = 0)
        pc := BitVec.ofNat 4 ((s.pc.toNat + 1) % 16) }

/-- R94: JMP writes the PC with its operand and nothing else, and asks for neither halt nor advance. -/
def Obligations.JmpSetsThePc : Prop :=
  ∀ (n : Addr) (s : State), decode (0b0110#4 ++ n) = .jmp n
    ∧ exec (.jmp n) s = .next { s with pc := n }
    ∧ (jmpEffect n s).haltRequested = false ∧ (jmpEffect n s).advancePC = false

/-- R95: JC sets the PC to its operand if C, else advances it modulo 16; it writes nothing else. -/
def Obligations.JcJumpsOnCarry : Prop :=
  ∀ (n : Addr) (s : State), decode (0b0111#4 ++ n) = .jc n
    ∧ exec (.jc n) s = .next { s with pc := if s.c then n else BitVec.ofNat 4 ((s.pc.toNat + 1) % 16) }
    ∧ (jcEffect n s).haltRequested = false ∧ (jcEffect n s).advancePC = !s.c

/-- R96: JZ sets the PC to its operand if Z, else advances it modulo 16; it writes nothing else. -/
def Obligations.JzJumpsOnZero : Prop :=
  ∀ (n : Addr) (s : State), decode (0b1000#4 ++ n) = .jz n
    ∧ exec (.jz n) s = .next { s with pc := if s.z then n else BitVec.ofNat 4 ((s.pc.toNat + 1) % 16) }
    ∧ (jzEffect n s).haltRequested = false ∧ (jzEffect n s).advancePC = !s.z

/-- R98: OUT copies A to the output register; A, the flags and memory are kept and the PC advances modulo 16. -/
def Obligations.OutCopiesTheAccumulator : Prop :=
  ∀ (x : Nibble) (s : State), decode (0b1110#4 ++ x) = .out x
    ∧ exec (.out x) s = .next { s with out := s.a, pc := BitVec.ofNat 4 ((s.pc.toNat + 1) % 16) }
    ∧ (outEffect x s).haltRequested = false ∧ (outEffect x s).advancePC = true

/-- HLT sets STATUS to HALTED and writes no register, flag or byte (spec/44_system.md, HLT). That the PC advances before
the halt is the spec's decision D3 (log entry 3). -/
def Obligations.HltHalts : Prop :=
  ∀ (x : Nibble) (s : State), decode (0b1111#4 ++ x) = .hlt x
    ∧ exec (.hlt x) s = .next { s with status := .halted, pc := BitVec.ofNat 4 ((s.pc.toNat + 1) % 16) }

/-- The five reserved rows raise UndefinedOpcode: FAULT_ADDR, FAULT_BYTE and STATUS are written and nothing else, so the
PC keeps the offending address (spec/60_exceptions.md, section 1). The fault record and the state FAULTED are the spec's
decision D4 (log entry 4). That FAULT_BYTE is the row's own byte, packed again, is the model's (DEDUCED, log entry 8): R101
records MEM[PC] as fetched, which `Obligations.UndefinedOpcodeIsTaken` states of a step. -/
def Obligations.ReservedRowsRaiseUndefinedOpcode : Prop :=
  ∀ (x : Nibble) (s : State),
    exec (.reserved9 x) s = .next { s with faultAddr := s.pc, faultByte := 9#4 ++ x, status := .faulted }
    ∧ exec (.reserved10 x) s = .next { s with faultAddr := s.pc, faultByte := 10#4 ++ x, status := .faulted }
    ∧ exec (.reserved11 x) s = .next { s with faultAddr := s.pc, faultByte := 11#4 ++ x, status := .faulted }
    ∧ exec (.reserved12 x) s = .next { s with faultAddr := s.pc, faultByte := 12#4 ++ x, status := .faulted }
    ∧ exec (.reserved13 x) s = .next { s with faultAddr := s.pc, faultByte := 13#4 ++ x, status := .faulted }

/-- The pair (haltRequested, advancePC) of each instruction, the table of R73. HLT's advancePC is the spec's decision D3
(log entry 3). -/
def Obligations.OutcomePairs : Prop :=
  ∀ (x : Nibble) (s : State),
    (∀ r ∈ [nopEffect x s, ldaEffect x s, addEffect x s, subEffect x s, strEffect x s, ldiEffect x s, outEffect x s],
      r.haltRequested = false ∧ r.advancePC = true)
    ∧ ((jmpEffect x s).haltRequested = false ∧ (jmpEffect x s).advancePC = false)
    ∧ ((jcEffect x s).haltRequested = false ∧ (jcEffect x s).advancePC = !s.c)
    ∧ ((jzEffect x s).haltRequested = false ∧ (jzEffect x s).advancePC = !s.z)
    ∧ ((hltEffect x s).haltRequested = true ∧ (hltEffect x s).advancePC = true)

/-! ## The ALU -/

/-- The laws of the ALU for all input pairs (spec/95_test_vectors.md, section 2.3, from R86 to R88): with the carry as
bit 8 the result is the true sum, and with the borrow taken away it is the true difference. -/
def Obligations.AluResultsAreExact : Prop :=
  ∀ a m : Byte,
    (aluAdd a m).result.toNat + 256 * (aluAdd a m).carry.toNat = a.toNat + m.toNat
    ∧ ((aluSub a m).result.toNat : Int) - 256 * ((aluSub a m).carry.toNat : Int) = (a.toNat : Int) - (m.toNat : Int)

/-- R88: Z is true exactly when the 8-bit result is 0, tested on the wrapped result. After add Z and C are both true
exactly when the true sum is 256, and Z without C exactly when both inputs are 0; after subtract Z exactly when m = A, C
is then false, and the two are never both true; 255 + 1 gives 0 with both. -/
def Obligations.ZeroFlagTestsTheWrappedResult : Prop :=
  (∀ a m : Byte,
    ((aluAdd a m).zero = true ↔ (aluAdd a m).result = 0#8)
    ∧ ((aluSub a m).zero = true ↔ (aluSub a m).result = 0#8)
    ∧ (((aluAdd a m).zero = true ∧ (aluAdd a m).carry = true) ↔ a.toNat + m.toNat = 256)
    ∧ (((aluAdd a m).zero = true ∧ (aluAdd a m).carry = false) ↔ a = 0#8 ∧ m = 0#8)
    ∧ ((aluSub a m).zero = true ↔ m = a)
    ∧ ((aluSub a m).zero = true → (aluSub a m).carry = false))
  ∧ aluAdd 255#8 1#8 = ⟨0#8, true, true⟩
  ∧ ∀ (n : Addr) (s t : State), exec (.add n) s = .next t ∨ exec (.sub n) s = .next t → (t.z = true ↔ t.a = 0#8)

/-- What ADD and SUB leave does not depend on the flags before them. That the carry is no input is the spec's decision D9
on conflict C5, that it is overwritten D7 (log entry 9). -/
def Obligations.FlagsAreNeverAluInputs : Prop :=
  ∀ (n : Addr) (s : State) (z c : Bool),
    exec (.add n) { s with z := z, c := c } = exec (.add n) s
    ∧ exec (.sub n) { s with z := z, c := c } = exec (.sub n) s

/-! ## Memory -/

/-- R28: MemRead and MemWrite. After a write the address reads as the value and every other address as before; the write
changes nothing but memory. -/
def Obligations.MemoryReadsAndWrites : Prop :=
  ∀ (s : State) (n k : Addr) (v : Byte),
    (s.memWrite n v).memRead k = (if k = n then v else s.memRead k)
    ∧ s.memWrite n v = { s with mem := (s.memWrite n v).mem }

/-- Canonical memories that read alike at all sixteen addresses are equal data (R17, R34; the canonical form is the
model's, log entry 6). -/
def Obligations.CanonicalMemoryIsItsBytes : Prop :=
  ∀ m m' : Memory, Memory.wf m = true → Memory.wf m' = true → (∀ k : Addr, Memory.read m k = Memory.read m' k) →
    m = m'

/-- The fetch after a STR reads the stored A if it is of the stored address, and else the byte that was there before; and
any later fetch of the stored address, the STR's own address among them, reads A as long as memory is as the STR left it
(R39, an inference the spec marks as its own). -/
def Obligations.StoreIsSeenByTheNextFetch : Prop :=
  ∀ (s : State) (n : Addr), s.status = .running → s.fetch = 0b0100#4 ++ n →
    ∃ t, step s = .next t ∧ t.status = .running ∧ t.fetch = (if t.pc = n then s.a else s.memRead t.pc)
      ∧ ∀ u : State, u.mem = t.mem → u.pc = n → u.fetch = s.a

/-! ## Frames -/

/-- No instruction but STR changes any byte of memory, and a data operand is only read (R17, R29). -/
def Obligations.OnlyStrChangesMemory : Prop :=
  ∀ (i : Instr) (s t : State), (∀ n, i ≠ .str n) → exec i s = .next t →
    t.mem = s.mem ∧ ∀ k : Addr, t.memRead k = s.memRead k

/-- STR's frame: the stored byte is the one at the operand's data address, every other byte reads as before, and no
register but the PC changes (R29, R84). -/
def Obligations.StrFrame : Prop :=
  ∀ (n : Addr) (s t : State), exec (.str n) s = .next t →
    t.memRead (dataAddress n) = s.a ∧ (∀ k : Addr, k ≠ dataAddress n → t.memRead k = s.memRead k)
    ∧ t.a = s.a ∧ t.out = s.out ∧ t.z = s.z ∧ t.c = s.c ∧ t.status = s.status
    ∧ t.faultAddr = s.faultAddr ∧ t.faultByte = s.faultByte

/-- Each item of the state changes only under the instructions named in the 'written by' column of R11's table: A under
LDA, LDI, ADD and SUB, OUT under OUT, Z and C under ADD and SUB (that LDI leaves them is the spec's decision D8, log entry
9), MEM under STR, STATUS under HLT and the reserved opcodes, the fault record under the reserved opcodes alone (FAULTED
and the record are the spec's decision D4, log entry 4), the PC under every one of the eleven (under HLT by D3, log entry
3). -/
def Obligations.EachRegisterHasItsWriters : Prop :=
  ∀ (i : Instr) (s t : State), exec i s = .next t →
    (t.a = s.a ∨ ∃ n, i = .lda n ∨ i = .ldi n ∨ i = .add n ∨ i = .sub n)
    ∧ (t.out = s.out ∨ ∃ x, i = .out x)
    ∧ ((t.z = s.z ∧ t.c = s.c) ∨ ∃ n, i = .add n ∨ i = .sub n)
    ∧ (t.mem = s.mem ∨ ∃ n, i = .str n)
    ∧ (t.status = s.status ∨ (∃ x, i = .hlt x) ∨ i.wf = false)
    ∧ ((t.faultAddr = s.faultAddr ∧ t.faultByte = s.faultByte) ∨ i.wf = false)
    ∧ (t.pc = s.pc ∨ i.wf = true)

/-- Where the PC goes: the operand under a taken jump, unchanged under a reserved opcode, else one further modulo 16 (R71,
R93). The wrap from 15 to 0 is the spec's decision D1, which the source recommends (log entry 1), and HLT's advance D3
(log entry 3). -/
def Obligations.PcOfTheNextState : Prop :=
  ∀ (i : Instr) (s t : State), exec i s = .next t →
    ((i.wf = false → t.pc = s.pc)
    ∧ (∀ n, (i = .jmp n ∨ (i = .jc n ∧ s.c = true) ∨ (i = .jz n ∧ s.z = true)) → t.pc = n)
    ∧ (i.wf = true → (∀ n, i ≠ .jmp n) → (s.c = true → ∀ n, i ≠ .jc n) → (s.z = true → ∀ n, i ≠ .jz n) →
        t.pc.toNat = if s.pc.toNat = 15 then 0 else s.pc.toNat + 1))

/-- No instruction reads OUT: two states that differ in OUT alone step to states that differ in OUT alone, if at all
(R13). -/
def Obligations.OutIsNeverRead : Prop :=
  ∀ (s : State) (v : Byte), ∃ t t', step s = .next t ∧ step { s with out := v } = .next t'
    ∧ t' = { t with out := t'.out } ∧ ((t'.out = v ∧ t.out = s.out) ∨ t'.out = t.out)

/-- No instruction reads the fault record: two running states that differ in it alone step to states that differ in it
alone, and not even there if the step faults (spec/10_state.md, section 5; the record is the spec's decision D4, log
entry 4). -/
def Obligations.FaultRecordIsNeverRead : Prop :=
  ∀ (s : State) (n : Addr) (v : Byte), s.status = .running →
    ∃ t t', step s = .next t ∧ step { s with faultAddr := n, faultByte := v } = .next t'
      ∧ t' = { t with faultAddr := t'.faultAddr, faultByte := t'.faultByte }
      ∧ (t.status = .faulted → t' = t)
      ∧ (t.status ≠ .faulted → t'.faultAddr = n ∧ t'.faultByte = v)

/-! ## The step -/

/-- A tick of a running machine executes the instruction its byte at the PC decodes to, whichever row that is, and a tick
of any other changes nothing (R69, R70, R72; a tick in FAULTED is the spec's decision D11, log entry 11). -/
def Obligations.StepRunsTheDecodedInstruction : Prop :=
  (∀ s : State, s.status = .running → step s = exec (decode (s.memRead s.pc)) s)
  ∧ (∀ (s : State) (i : Instr), s.status = .running → s.memRead s.pc = encode i → step s = exec i s)
  ∧ ∀ s : State, s.status ≠ .running → step s = .next s

/-- An instruction's byte placed where the next step fetches is what that step runs, and placing it changes memory at the
PC and STATUS alone (the model's stand-in for loading a program, log entry 15). -/
def Obligations.PlacedWordIsTheOneThatRuns : Prop :=
  ∀ (s : State) (i : Instr), ∃ p, p = s.withFetchWord 8 (encode i).toNat ∧ step p = exec i p
    ∧ (∀ k : Addr, k ≠ s.pc → p.memRead k = s.memRead k) ∧ p = { s with mem := p.mem, status := .running }

/-- The step is total: from every state it answers a next state, never a fault or a refusal of the model (R78, R102). -/
def Obligations.StepAlwaysAnswersANextState : Prop :=
  ∀ s : State, ∃ t, step s = .next t

/-- A fetched reserved opcode takes the exception from every running state: the address and the byte as fetched are
recorded, STATUS is FAULTED, and A, OUT, Z, C, PC and MEM keep their values (spec/60_exceptions.md, section 1; the spec's
decision D4, log entry 4). -/
def Obligations.UndefinedOpcodeIsTaken : Prop :=
  ∀ s : State, s.status = .running → 144 ≤ (s.memRead s.pc).toNat → (s.memRead s.pc).toNat < 224 →
    step s = .next { s with faultAddr := s.pc, faultByte := s.memRead s.pc, status := .faulted }

/-- The three transitions out of RUNNING: to HALTED exactly by HLT, to FAULTED exactly by a reserved opcode, else RUNNING
(spec/40_fetch_decode_execute.md, section 2; FAULTED is the spec's decision D4, log entry 4). -/
def Obligations.RunStateTransitions : Prop :=
  ∀ s : State, s.status = .running → ∃ t, step s = .next t
    ∧ (t.status = .halted ↔ 240 ≤ s.fetch.toNat)
    ∧ (t.status = .faulted ↔ 144 ≤ s.fetch.toNat ∧ s.fetch.toNat < 224)
    ∧ (t.status = .running ↔ s.fetch.toNat < 144 ∨ (224 ≤ s.fetch.toNat ∧ s.fetch.toNat < 240))

/-- HALTED and FAULTED are terminal: any number of ticks leaves every item of the state as it is
(spec/40_fetch_decode_execute.md, section 4; for FAULTED the spec's decision D11, log entry 11). -/
def Obligations.TerminalStatesNeverChange : Prop :=
  ∀ (s : State) (k : Nat), s.Ended → core.run k s = .next s

/-- A JMP to its own address loops forever: after any number of ticks the state is the same (R82, an inference the spec
marks as its own). -/
def Obligations.SelfJumpNeverLeaves : Prop :=
  ∀ (s : State) (k : Nat), s.status = .running → s.fetch = 0b0110#4 ++ s.pc → core.run k s = .next s

/-- A step is safe, by the model's own definition `SafeOutcome` (log entry 17), exactly when the machine is not faulted
and does not fetch a reserved opcode. That FAULTED is no successful end is what R108 asks of a model; the state FAULTED is
the spec's decision D4 (log entry 4), that a faulted machine stays so D11 (log entry 11), and that nothing else faults R102,
an inference the spec marks as its own. -/
def Obligations.SafeStepsAreTheUnfaulted : Prop :=
  ∀ s : State, SafeOutcome (step s) ↔
    s.status ≠ .faulted ∧ ¬(s.status = .running ∧ isReservedByte s.fetch = true)

/-- The step agrees with the reference listing, transcribed from R80. The listing rests on the spec's decisions D1, D3, D4
and D11 (log entries 1, 3, 4 and 11), and its ADD, SUB and LDI lines on D7, D8 and D9 (log entry 9). -/
def Obligations.StepIsTheReferenceStep : Prop :=
  ∀ s : State, step s = .next (referenceStep s)

/-- The step of a running machine agrees with the datapath driven by the control signals of R56, a table the spec derives
from the instruction rules. What the table's blank columns do is the model's choice (log entry 18); beside the table the
datapath builds in the spec's decisions D1, D3 and D4 (the advance modulo 16, under HLT too, and the fault record: log
entries 1, 3 and 4), and in the ALU and the flag write enables D7, D8 and D9 (log entry 9). -/
def Obligations.StepIsTheDatapathStep : Prop :=
  ∀ s : State, s.status = .running → step s = .next (datapathStep s)

/-! ## Invariants and reset -/

/-- Every step keeps the invariants of `State.Inv`. Two are of R23, which the spec marks as its own inference: no fault
record unless FAULTED, and in FAULTED the record is the offending reserved byte and its address, the PC (the record is the
spec's decision D4, log entry 4; ticks in FAULTED D11, log entry 11). The third, that memory is canonical, is the model's
choice (log entry 6). -/
def Obligations.StepKeepsTheInvariants : Prop :=
  ∀ s t : State, s.Inv → step s = .next t → t.Inv

/-- The invariants hold after every reset, and at the model's `State.reset`. Canonical memory in `State.Inv` and the empty
IMAGE of `State.reset` are the model's choices (log entry 6); R23, which gives the rest, is marked by the spec as its own
inference, and the fault record's reset value is its decision D4 (log entry 4). -/
def Obligations.ResetHasTheInvariants : Prop :=
  State.reset.Inv ∧ ∀ g : Image, (State.resetWith g).Inv

/-- Whatever the outside world does, ticks and resets in any order, the model answers a next state, which has the
invariants (R22, R128; a halted or faulted machine answers ticks with the state it is in). Canonical memory in `State.Inv`
is the model's choice (log entry 6), the fault record the spec's decision D4 (log entry 4), reset at any time D20 (log entry
10), and ticks in FAULTED D11 (log entry 11). -/
def Obligations.EveryEventSequenceKeepsTheInvariants : Prop :=
  ∀ (events : List Event) (s : State), s.Inv → ∃ t, s.reactAll events = .next t ∧ t.Inv

/-- Reset leaves PC 0, STATUS RUNNING and MEM the IMAGE (the source's values, R118), from every state; A, OUT, Z, C are 0
and false by the spec's decision D2 (log entry 2), the fault record 0 by D4 (log entry 4), and a reset at any time is D20
(log entry 10). -/
def Obligations.ResetLeavesTheResetState : Prop :=
  ∀ (s : State) (g : Image), ∃ t, s.react (.reset g) = .next t
    ∧ t.pc = 0#4 ∧ t.status = .running ∧ (∀ k : Addr, t.memRead k = imageByte g k)
    ∧ t.a = 0#8 ∧ t.out = 0#8 ∧ t.z = false ∧ t.c = false ∧ t.faultAddr = 0#4 ∧ t.faultByte = 0#8

/-- The model's `State.reset` is the reset with the image of an empty binary file (the model's choice, log entry 6). -/
def Obligations.ResetIsTheEmptyFile : Prop :=
  State.reset = State.load [] ∧ ∀ k : Addr, State.reset.memRead k = 0#8

/-- The loader contract: file byte n becomes MEM[n] for n below 16, the rest of memory is 0, what is beyond 16 is dropped,
and the PC starts at 0 (spec/70_reset_and_hazards.md, section 2; the spec's decision D6, log entry 6). -/
def Obligations.LoaderTruncatesAndPads : Prop :=
  ∀ (file : List Byte) (k : Addr),
    (State.load file).memRead k = (if h : k.toNat < file.length then file[k.toNat] else 0#8)
    ∧ (State.load file).pc = 0#4

/-! ## Observation -/

/-- The outside world's view: "halted-state" reports HALTED and never a fault, STATUS is shown, the diagnostic is there
exactly in FAULTED and holds the fault record, A, OUT, Z and C are the registers and flags, and memory is its sixteen bytes
and no more (R108, R114, R128; the record is the spec's decision D4, log entry 4). The PC is shown as an 8-bit value below
16, equal to the four bits the model holds (R16, the spec's decision D22; log entry 5, the model's choice). -/
def Obligations.ViewTellsHaltFromFault : Prop :=
  ∀ s : State, (s.view.halted = true ↔ s.EndedNormally)
    ∧ (s.status = .faulted → s.view.diagnostic = some (.undefinedOpcode s.faultAddr s.faultByte))
    ∧ (s.status ≠ .faulted → s.view.diagnostic = none)
    ∧ s.view.status = s.status
    ∧ s.view.a = s.a ∧ s.view.out = s.out ∧ s.view.z = s.z ∧ s.view.c = s.c
    ∧ s.view.pc.toNat = s.pc.toNat ∧ s.view.pc.toNat < 16
    ∧ s.view.mem.length = 16
    ∧ ∀ k : Addr, s.view.mem[k.toNat]? = some (s.memRead k)

/-! ## The assembler -/

/-- One output byte per source line, index-aligned, blank lines included (R58, R63). -/
def Obligations.AssemblerKeepsLineNumbers : Prop :=
  ∀ lines : List (List Char), (assemble lines).length = lines.length
    ∧ ∀ n : Nat, (assemble lines)[n]? = (lines[n]?).map assembleLine

/-- An instruction line packs the opcode with the operand masked to 4 bits, for every operand value 0..255, and a bare
mnemonic has a zero low nibble (spec/30_encoding.md, section 6; the masking is the spec's decision D16, log entry 12):
for the model's own table, and for the mnemonics and opcodes written out from R49 (`opcodeMap`). -/
def Obligations.AssemblerPacksInstructionLines : Prop :=
  (∀ d ∈ isaTable, assembleLine d.mnemonic = packByte d.opcode 0#4
    ∧ ∀ v < 256, assembleLine (sourceLine d v) = packByte d.opcode (BitVec.ofNat 4 v))
  ∧ ∀ row ∈ opcodeMap, assembleLine row.mnemonic = packByte row.opcode 0#4
    ∧ ∀ v < 256, assembleLine (row.mnemonic ++ ' ' :: decimal v) = packByte row.opcode (BitVec.ofNat 4 v)

/-- A line whose code token is no mnemonic is a raw data byte, emitted verbatim, and 0 where it does not parse; every value
0..255 in decimal is emitted as itself (spec/30_encoding.md, section 6; what parses is the spec's decision D17, log
entry 12). -/
def Obligations.RawLinesAreEmittedVerbatim : Prop :=
  (∀ line : List Char, descriptorNamed (codeToken (codeText line)) = none →
    assembleLine line = (parseByte (codeText line)).getD 0#8)
  ∧ (∀ line : List Char, assembleLine? line = none → assembleLine line = 0#8)
  ∧ ∀ v < 256, assembleLine (decimal v) = BitVec.ofNat 8 v

/-- A line with nothing but white space before its comment assembles to 0, and a comment changes no line's byte
(spec/30_encoding.md, section 6, an inference the spec marks as its own; the white-space characters are the model's
choice, log entry 13). -/
def Obligations.BlankLinesAndComments : Prop :=
  (∀ line : List Char, (stripComment line).all isSpace = true → assembleLine line = 0#8)
  ∧ ∀ text comment : List Char, assembleLine (text ++ ';' :: comment) = assembleLine text

/-- Line n of a source becomes MEM[n] after reset with the assembled program, and memory beyond it is 0 (R63, R66). -/
def Obligations.SourceLineBecomesItsAddress : Prop :=
  ∀ (lines : List (List Char)) (k : Addr),
    (State.loadProgram lines).memRead k = (if h : k.toNat < lines.length then assembleLine lines[k.toNat] else 0#8)
end

