-- ==== Sys2Proof/Laws/Decode.lean ====
section
/-! SUPPORT. The fields of an instruction byte: packing and splitting are inverse. -/

namespace Sys2Proof

@[simp] theorem opcodeOf_packByte (opcode operand : Nibble) : opcodeOf (packByte opcode operand) = opcode := by
  revert opcode operand; decide

@[simp] theorem operandOf_packByte (opcode operand : Nibble) : operandOf (packByte opcode operand) = operand := by
  revert opcode operand; decide

/-- The opcode as a number, the high nibble. -/
theorem opcodeOf_toNat (b : Byte) : (opcodeOf b).toNat = b.toNat / 16 := by
  revert b; decide

/-- The operand as a number, the low nibble. -/
theorem operandOf_toNat (b : Byte) : (operandOf b).toNat = b.toNat % 16 := by
  revert b; decide

/-- A row knows its opcode: `instrOf` goes to the row whose opcode it is given. -/
theorem instrOf_opcode (opcode operand : Nibble) : (instrOf opcode operand).opcode = opcode := by
  revert opcode operand; decide

/-- A row keeps the operand it is given. -/
theorem instrOf_operand (opcode operand : Nibble) : (instrOf opcode operand).operand = operand := by
  revert opcode operand; decide

end Sys2Proof
end

