-- ==== Sys2Proof/Laws/State.lean ====
section
/-! SUPPORT. One lemma per field per update, and what each shared operation over the state gives. -/

namespace Sys2Proof.Machine

/-! ### setA -/

@[simp] theorem State.setA_a (s : State) (v : Byte) : (s.setA v).a = v := rfl
@[simp] theorem State.setA_out (s : State) (v : Byte) : (s.setA v).out = s.out := rfl
@[simp] theorem State.setA_z (s : State) (v : Byte) : (s.setA v).z = s.z := rfl
@[simp] theorem State.setA_c (s : State) (v : Byte) : (s.setA v).c = s.c := rfl
@[simp] theorem State.setA_pc (s : State) (v : Byte) : (s.setA v).pc = s.pc := rfl
@[simp] theorem State.setA_mem (s : State) (v : Byte) : (s.setA v).mem = s.mem := rfl
@[simp] theorem State.setA_status (s : State) (v : Byte) : (s.setA v).status = s.status := rfl
@[simp] theorem State.setA_faultAddr (s : State) (v : Byte) : (s.setA v).faultAddr = s.faultAddr := rfl
@[simp] theorem State.setA_faultByte (s : State) (v : Byte) : (s.setA v).faultByte = s.faultByte := rfl

/-! ### setOut -/

@[simp] theorem State.setOut_a (s : State) (v : Byte) : (s.setOut v).a = s.a := rfl
@[simp] theorem State.setOut_out (s : State) (v : Byte) : (s.setOut v).out = v := rfl
@[simp] theorem State.setOut_z (s : State) (v : Byte) : (s.setOut v).z = s.z := rfl
@[simp] theorem State.setOut_c (s : State) (v : Byte) : (s.setOut v).c = s.c := rfl
@[simp] theorem State.setOut_pc (s : State) (v : Byte) : (s.setOut v).pc = s.pc := rfl
@[simp] theorem State.setOut_mem (s : State) (v : Byte) : (s.setOut v).mem = s.mem := rfl
@[simp] theorem State.setOut_status (s : State) (v : Byte) : (s.setOut v).status = s.status := rfl
@[simp] theorem State.setOut_faultAddr (s : State) (v : Byte) : (s.setOut v).faultAddr = s.faultAddr := rfl
@[simp] theorem State.setOut_faultByte (s : State) (v : Byte) : (s.setOut v).faultByte = s.faultByte := rfl

/-! ### setFlags -/

@[simp] theorem State.setFlags_a (s : State) (z c : Bool) : (s.setFlags z c).a = s.a := rfl
@[simp] theorem State.setFlags_out (s : State) (z c : Bool) : (s.setFlags z c).out = s.out := rfl
@[simp] theorem State.setFlags_z (s : State) (z c : Bool) : (s.setFlags z c).z = z := rfl
@[simp] theorem State.setFlags_c (s : State) (z c : Bool) : (s.setFlags z c).c = c := rfl
@[simp] theorem State.setFlags_pc (s : State) (z c : Bool) : (s.setFlags z c).pc = s.pc := rfl
@[simp] theorem State.setFlags_mem (s : State) (z c : Bool) : (s.setFlags z c).mem = s.mem := rfl
@[simp] theorem State.setFlags_status (s : State) (z c : Bool) : (s.setFlags z c).status = s.status := rfl
@[simp] theorem State.setFlags_faultAddr (s : State) (z c : Bool) : (s.setFlags z c).faultAddr = s.faultAddr := rfl
@[simp] theorem State.setFlags_faultByte (s : State) (z c : Bool) : (s.setFlags z c).faultByte = s.faultByte := rfl

/-! ### setPc -/

@[simp] theorem State.setPc_a (s : State) (t : Addr) : (s.setPc t).a = s.a := rfl
@[simp] theorem State.setPc_out (s : State) (t : Addr) : (s.setPc t).out = s.out := rfl
@[simp] theorem State.setPc_z (s : State) (t : Addr) : (s.setPc t).z = s.z := rfl
@[simp] theorem State.setPc_c (s : State) (t : Addr) : (s.setPc t).c = s.c := rfl
@[simp] theorem State.setPc_pc (s : State) (t : Addr) : (s.setPc t).pc = t := rfl
@[simp] theorem State.setPc_mem (s : State) (t : Addr) : (s.setPc t).mem = s.mem := rfl
@[simp] theorem State.setPc_status (s : State) (t : Addr) : (s.setPc t).status = s.status := rfl
@[simp] theorem State.setPc_faultAddr (s : State) (t : Addr) : (s.setPc t).faultAddr = s.faultAddr := rfl
@[simp] theorem State.setPc_faultByte (s : State) (t : Addr) : (s.setPc t).faultByte = s.faultByte := rfl

/-! ### setStatus -/

@[simp] theorem State.setStatus_a (s : State) (x : Status) : (s.setStatus x).a = s.a := rfl
@[simp] theorem State.setStatus_out (s : State) (x : Status) : (s.setStatus x).out = s.out := rfl
@[simp] theorem State.setStatus_z (s : State) (x : Status) : (s.setStatus x).z = s.z := rfl
@[simp] theorem State.setStatus_c (s : State) (x : Status) : (s.setStatus x).c = s.c := rfl
@[simp] theorem State.setStatus_pc (s : State) (x : Status) : (s.setStatus x).pc = s.pc := rfl
@[simp] theorem State.setStatus_mem (s : State) (x : Status) : (s.setStatus x).mem = s.mem := rfl
@[simp] theorem State.setStatus_status (s : State) (x : Status) : (s.setStatus x).status = x := rfl
@[simp] theorem State.setStatus_faultAddr (s : State) (x : Status) : (s.setStatus x).faultAddr = s.faultAddr := rfl
@[simp] theorem State.setStatus_faultByte (s : State) (x : Status) : (s.setStatus x).faultByte = s.faultByte := rfl

/-! ### memWrite -/

@[simp] theorem State.memWrite_a (s : State) (n : Addr) (v : Byte) : (s.memWrite n v).a = s.a := rfl
@[simp] theorem State.memWrite_out (s : State) (n : Addr) (v : Byte) : (s.memWrite n v).out = s.out := rfl
@[simp] theorem State.memWrite_z (s : State) (n : Addr) (v : Byte) : (s.memWrite n v).z = s.z := rfl
@[simp] theorem State.memWrite_c (s : State) (n : Addr) (v : Byte) : (s.memWrite n v).c = s.c := rfl
@[simp] theorem State.memWrite_pc (s : State) (n : Addr) (v : Byte) : (s.memWrite n v).pc = s.pc := rfl
@[simp] theorem State.memWrite_mem (s : State) (n : Addr) (v : Byte) :
    (s.memWrite n v).mem = Memory.write s.mem n v := rfl
@[simp] theorem State.memWrite_status (s : State) (n : Addr) (v : Byte) : (s.memWrite n v).status = s.status := rfl
@[simp] theorem State.memWrite_faultAddr (s : State) (n : Addr) (v : Byte) :
    (s.memWrite n v).faultAddr = s.faultAddr := rfl
@[simp] theorem State.memWrite_faultByte (s : State) (n : Addr) (v : Byte) :
    (s.memWrite n v).faultByte = s.faultByte := rfl

/-! ### raiseUndefinedOpcode -/

@[simp] theorem State.raiseUndefinedOpcode_a (s : State) (n : Addr) (b : Byte) :
    (s.raiseUndefinedOpcode n b).a = s.a := rfl
@[simp] theorem State.raiseUndefinedOpcode_out (s : State) (n : Addr) (b : Byte) :
    (s.raiseUndefinedOpcode n b).out = s.out := rfl
@[simp] theorem State.raiseUndefinedOpcode_z (s : State) (n : Addr) (b : Byte) :
    (s.raiseUndefinedOpcode n b).z = s.z := rfl
@[simp] theorem State.raiseUndefinedOpcode_c (s : State) (n : Addr) (b : Byte) :
    (s.raiseUndefinedOpcode n b).c = s.c := rfl
@[simp] theorem State.raiseUndefinedOpcode_pc (s : State) (n : Addr) (b : Byte) :
    (s.raiseUndefinedOpcode n b).pc = s.pc := rfl
@[simp] theorem State.raiseUndefinedOpcode_mem (s : State) (n : Addr) (b : Byte) :
    (s.raiseUndefinedOpcode n b).mem = s.mem := rfl
@[simp] theorem State.raiseUndefinedOpcode_status (s : State) (n : Addr) (b : Byte) :
    (s.raiseUndefinedOpcode n b).status = .faulted := rfl
@[simp] theorem State.raiseUndefinedOpcode_faultAddr (s : State) (n : Addr) (b : Byte) :
    (s.raiseUndefinedOpcode n b).faultAddr = n := rfl
@[simp] theorem State.raiseUndefinedOpcode_faultByte (s : State) (n : Addr) (b : Byte) :
    (s.raiseUndefinedOpcode n b).faultByte = b := rfl

/-! ### What the shared operations give -/

theorem State.isRunning_iff (s : State) : s.isRunning = true ↔ s.status = .running := by
  simp [State.isRunning]

theorem State.isRunning_eq_false_iff (s : State) : s.isRunning = false ↔ s.status ≠ .running := by
  simp [State.isRunning]

@[simp] theorem State.proceed_complete (s : State) : s.proceed.complete = s.setPc (nextPc s.pc) := rfl

@[simp] theorem State.jumped_complete (s : State) : s.jumped.complete = s := rfl

@[simp] theorem State.requestHalt_complete (s : State) :
    s.requestHalt.complete = (s.setPc (nextPc s.pc)).setStatus .halted := rfl

/-- All a jump can do: PC becomes the target or the next address. -/
theorem State.jumpIf_complete (s : State) (condition : Bool) (target : Addr) :
    (s.jumpIf condition target).complete = s.setPc (if condition then target else nextPc s.pc) := by
  cases condition <;> rfl

/-- All an ALU instruction writes. -/
theorem State.writeAlu_eq (s : State) (r : AluOut) :
    s.writeAlu r = { s with a := r.result, z := r.zero, c := r.carry } := rfl

/-- All a decode failure writes. -/
theorem decodeFailure_eq (opcode operand : Nibble) (s : State) :
    decodeFailure opcode operand s =
      { s with faultAddr := s.pc, faultByte := packByte opcode operand, status := .faulted } := rfl

/-- The next address as a number. -/
theorem nextPc_toNat (pc : Addr) : (nextPc pc).toNat = (pc.toNat + 1) % 16 := by
  simp [nextPc, BitVec.toNat_add]

/-! ### The ALU -/

theorem aluAdd_result (a m : Byte) : (aluAdd a m).result = a + m := by
  apply BitVec.eq_of_toNat_eq
  simp [aluAdd, BitVec.toNat_add]

theorem aluSub_result (a m : Byte) : (aluSub a m).result = a - m := by
  apply BitVec.eq_of_toNat_eq
  simp only [aluSub, BitVec.toNat_ofInt, BitVec.toNat_sub]
  omega

theorem aluAdd_carry (a m : Byte) : (aluAdd a m).carry = decide (255 < a.toNat + m.toNat) := rfl

theorem aluSub_carry (a m : Byte) : (aluSub a m).carry = decide (a.toNat < m.toNat) := rfl

theorem aluAdd_zero (a m : Byte) : (aluAdd a m).zero = zeroOf (aluAdd a m).result := rfl

theorem aluSub_zero (a m : Byte) : (aluSub a m).zero = zeroOf (aluSub a m).result := rfl

/-! ### Reset with an IMAGE -/

@[simp] theorem State.resetWith_a (g : Image) : (State.resetWith g).a = 0#8 := rfl
@[simp] theorem State.resetWith_out (g : Image) : (State.resetWith g).out = 0#8 := rfl
@[simp] theorem State.resetWith_z (g : Image) : (State.resetWith g).z = false := rfl
@[simp] theorem State.resetWith_c (g : Image) : (State.resetWith g).c = false := rfl
@[simp] theorem State.resetWith_pc (g : Image) : (State.resetWith g).pc = 0#4 := rfl
@[simp] theorem State.resetWith_mem (g : Image) : (State.resetWith g).mem = Memory.ofImage g := rfl
@[simp] theorem State.resetWith_status (g : Image) : (State.resetWith g).status = .running := rfl
@[simp] theorem State.resetWith_faultAddr (g : Image) : (State.resetWith g).faultAddr = 0#4 := rfl
@[simp] theorem State.resetWith_faultByte (g : Image) : (State.resetWith g).faultByte = 0#8 := rfl

end Sys2Proof.Machine
end

