-- ==== Sys2Proof/Laws/Effects.lean ====
section
/-! SUPPORT. Each instruction's completed effect as updates of the state, so that no later proof unfolds a meaning, and
the two ways a tick goes. -/

namespace Sys2Proof.Machine

@[simp] theorem nopEffect_complete (x : Nibble) (s : State) :
    (nopEffect x s).complete = s.setPc (nextPc s.pc) := rfl

@[simp] theorem ldaEffect_complete (n : Addr) (s : State) :
    (ldaEffect n s).complete = (s.setA (s.memRead n)).setPc (nextPc s.pc) := rfl

@[simp] theorem addEffect_complete (n : Addr) (s : State) :
    (addEffect n s).complete = (s.writeAlu (aluAdd s.a (s.memRead n))).setPc (nextPc s.pc) := rfl

@[simp] theorem subEffect_complete (n : Addr) (s : State) :
    (subEffect n s).complete = (s.writeAlu (aluSub s.a (s.memRead n))).setPc (nextPc s.pc) := rfl

@[simp] theorem strEffect_complete (n : Addr) (s : State) :
    (strEffect n s).complete = (s.memWrite n s.a).setPc (nextPc s.pc) := rfl

@[simp] theorem ldiEffect_complete (o : Nibble) (s : State) :
    (ldiEffect o s).complete = (s.setA (literalOf o)).setPc (nextPc s.pc) := rfl

@[simp] theorem jmpEffect_complete (n : Addr) (s : State) : (jmpEffect n s).complete = s.setPc n := rfl

@[simp] theorem jcEffect_complete (n : Addr) (s : State) :
    (jcEffect n s).complete = s.setPc (if s.c then n else nextPc s.pc) := s.jumpIf_complete s.c n

@[simp] theorem jzEffect_complete (n : Addr) (s : State) :
    (jzEffect n s).complete = s.setPc (if s.z then n else nextPc s.pc) := s.jumpIf_complete s.z n

@[simp] theorem outEffect_complete (x : Nibble) (s : State) :
    (outEffect x s).complete = (s.setOut s.a).setPc (nextPc s.pc) := rfl

@[simp] theorem hltEffect_complete (x : Nibble) (s : State) :
    (hltEffect x s).complete = (s.setPc (nextPc s.pc)).setStatus .halted := rfl

/-- The step of a machine known to run. -/
theorem step_eq_exec {s : State} (h : s.isRunning = true) : step s = exec (decode s.fetch) s := by
  simp [step, h]

/-- The step of a machine known to have ended. -/
theorem step_eq_self {s : State} (h : s.isRunning = false) : step s = .next s := by
  simp [step, h]

end Sys2Proof.Machine
end

