-- ==== Sys2Proof/Laws/Memory.lean ====
section
/-! SUPPORT. What the memory operations do: one read-after-write law, and that every operation keeps the canonical
form. -/

namespace Sys2Proof.Machine

/-! ### Reading -/

/-- The law of erase: the address reads as unlisted, every other as before. -/
theorem Memory.lookup_erase (m : Memory) (n k : Nat) :
    Memory.lookup (Memory.erase m n) k = if k = n then Config.unlistedByte else Memory.lookup m k := by
  induction m with
  | nil => simp [Memory.erase, Memory.lookup]
  | cons cell rest ih =>
    obtain ⟨address, value⟩ := cell
    simp only [Memory.erase, ne_eq, decide_not] at ih
    by_cases hn : address = n
    · subst hn
      by_cases hk : k = address <;> simp_all [Memory.erase, Memory.lookup, eq_comm]
    · by_cases hk : k = n
      · subst hk; simp_all [Memory.erase, Memory.lookup]
      · by_cases ha : address = k <;> simp_all [Memory.erase, Memory.lookup]

/-- The law of insert, for an address not listed yet. -/
theorem Memory.lookup_insert (m : Memory) (n : Nat) (v : Byte) (k : Nat)
    (absent : ∀ cell ∈ m, cell.1 ≠ n) :
    Memory.lookup (Memory.insert n v m) k = if k = n then v else Memory.lookup m k := by
  induction m with
  | nil => simp [Memory.insert, Memory.lookup, eq_comm]
  | cons cell rest ih =>
    obtain ⟨address, value⟩ := cell
    have hne : address ≠ n := absent (address, value) (by simp)
    have ih := ih fun cell hc => absent cell (by simp [hc])
    by_cases hlt : n < address
    · simp [Memory.insert, hlt, Memory.lookup, eq_comm]
    · by_cases ha : address = k
      · subst ha; simp [Memory.insert, hlt, Memory.lookup, hne]
      · simp [Memory.insert, hlt, Memory.lookup, ha, ih]

theorem Memory.erase_absent (m : Memory) (n : Nat) : ∀ cell ∈ Memory.erase m n, cell.1 ≠ n := by
  simp [Memory.erase]

/-- The read-after-write law, in every memory: the address written reads as the value, every other as before. -/
@[simp] theorem Memory.read_write (m : Memory) (n : Addr) (v : Byte) (k : Addr) :
    Memory.read (Memory.write m n v) k = if k = n then v else Memory.read m k := by
  unfold Memory.read Memory.write
  by_cases hv : v = Config.unlistedByte
  · simp [hv, Memory.lookup_erase, BitVec.toNat_inj]
  · simp [hv, Memory.lookup_insert _ _ _ _ (Memory.erase_absent m n.toNat), Memory.lookup_erase,
      BitVec.toNat_inj]
    split <;> simp_all

/-- Memory shown as bytes is sixteen bytes. -/
@[simp] theorem Memory.bytes_length (m : Memory) : (Memory.bytes m).length = 16 := by
  simp [Memory.bytes, Config.memSize]

/-! ### The canonical form -/

theorem Memory.wfFrom_mono {low low' : Nat} (h : low' ≤ low) {m : Memory} (hm : Memory.wfFrom low m = true) :
    Memory.wfFrom low' m = true := by
  cases m with
  | nil => rfl
  | cons cell rest =>
    simp only [Memory.wfFrom, Bool.and_eq_true, decide_eq_true_eq] at hm ⊢
    exact ⟨⟨⟨h.trans hm.1.1.1, hm.1.1.2⟩, hm.1.2⟩, hm.2⟩

theorem Memory.wfFrom_erase (n : Nat) {low : Nat} {m : Memory} (hm : Memory.wfFrom low m = true) :
    Memory.wfFrom low (Memory.erase m n) = true := by
  induction m generalizing low with
  | nil => rfl
  | cons cell rest ih =>
    obtain ⟨address, value⟩ := cell
    simp only [Memory.wfFrom, Bool.and_eq_true, decide_eq_true_eq] at hm
    obtain ⟨⟨⟨hlow, hsize⟩, hv⟩, hrest⟩ := hm
    by_cases h : address = n
    · have := Memory.wfFrom_mono (by omega : low ≤ address + 1) (ih hrest)
      simpa [Memory.erase, h] using this
    · have := ih hrest
      simp_all [Memory.erase, Memory.wfFrom]

theorem Memory.wfFrom_insert {n : Nat} {v : Byte} (hn : n < Config.memSize) (hv : v ≠ Config.unlistedByte)
    {low : Nat} (hlow : low ≤ n) {m : Memory} (absent : ∀ cell ∈ m, cell.1 ≠ n)
    (hm : Memory.wfFrom low m = true) : Memory.wfFrom low (Memory.insert n v m) = true := by
  induction m generalizing low with
  | nil => simp [Memory.insert, Memory.wfFrom, hn, hv, hlow]
  | cons cell rest ih =>
    obtain ⟨address, value⟩ := cell
    have hne : address ≠ n := absent (address, value) (by simp)
    simp only [Memory.wfFrom, Bool.and_eq_true, decide_eq_true_eq] at hm
    obtain ⟨⟨⟨hl, hsize⟩, hval⟩, hrest⟩ := hm
    by_cases hlt : n < address
    · simp [Memory.insert, hlt, Memory.wfFrom, hn, hv, hlow, hsize, hval, hrest]
    · have := ih (by omega : address + 1 ≤ n) (fun cell hc => absent cell (by simp [hc])) hrest
      simp [Memory.insert, hlt, Memory.wfFrom, hl, hsize, hval, this]

/-- A write keeps the canonical form. -/
theorem Memory.wf_write {m : Memory} (hm : Memory.wf m = true) (n : Addr) (v : Byte) :
    Memory.wf (Memory.write m n v) = true := by
  unfold Memory.wf Memory.write at *
  split
  · exact Memory.wfFrom_erase _ hm
  · rename_i hv
    exact Memory.wfFrom_insert n.isLt hv (Nat.zero_le _) (Memory.erase_absent _ _) (Memory.wfFrom_erase _ hm)

/-- Memory filled from an image has the canonical form, whatever the addresses. -/
theorem Memory.wf_fill (image : Image) (addresses : List Addr) :
    Memory.wf (Memory.fill image addresses) = true := by
  induction addresses with
  | nil => rfl
  | cons n rest ih => exact Memory.wf_write ih n _

/-- The memory of a reset has the canonical form. -/
theorem Memory.wf_ofImage (image : Image) : Memory.wf (Memory.ofImage image) = true :=
  Memory.wf_fill image allAddresses

/-- The memory of `State.reset` has the canonical form. -/
theorem State.reset_mem_wf : Memory.wf State.reset.mem = true := rfl

/-- What a filled memory reads as. -/
theorem Memory.read_fill (image : Image) (addresses : List Addr) (k : Addr) :
    Memory.read (Memory.fill image addresses) k = if k ∈ addresses then imageByte image k else 0#8 := by
  induction addresses with
  | nil => rfl
  | cons n rest ih =>
    by_cases h : k = n
    · subst h; simp [Memory.fill]
    · simp [Memory.fill, h, ih]

theorem mem_allAddresses (k : Addr) : k ∈ allAddresses := by
  revert k; decide

/-- What the memory of a reset reads as. -/
@[simp] theorem Memory.read_ofImage (image : Image) (k : Addr) :
    Memory.read (Memory.ofImage image) k = imageByte image k := by
  simp [Memory.ofImage, Memory.read_fill, mem_allAddresses]

/-- What the loader's image holds at an address. -/
theorem imageByte_imageOfFile (file : List Byte) (k : Addr) :
    imageByte (imageOfFile file) k = file.getD k.toNat 0#8 := by
  simp [imageByte, imageOfFile, Vector.get]
  rfl

/-- The load of a file is the reset with its image. -/
theorem State.load_eq (file : List Byte) : State.load file = State.resetWith (imageOfFile file) := by
  unfold State.load
  rfl

end Sys2Proof.Machine
end

