-- ==== Sys2Proof/Tests/Slice0.lean ====
section
/-! SUPPORT. Tests, their expected results from spec/95_test_vectors.md (the vector is named in each comment), and a
witness for each obligation that has hypotheses. -/

namespace Sys2Proof.Tests

open Sys2Proof.Machine

/-! ### Helpers -/

/-- The next state of an outcome. -/
def nextOf : Host.Outcome State Fault Refusal → Option State
  | .next t => some t
  | _ => none

/-- A running state with the given items, the rest as after reset. -/
def running (a : Byte) (z c : Bool) (pc : Addr) (mem : Memory) : State :=
  { State.reset with a := a, z := z, c := c, pc := pc, mem := mem }

/-- One field of the state after a tick. -/
def after {α : Type} (s : State) (f : State → α) : Option α := (nextOf (step s)).map f

/-! ### Well-formedness: the reserved rows are refused -/

theorem test_wf_refuses_reserved : (Instr.reserved9 15#4).wf = false ∧ (Instr.reserved10 5#4).wf = false
    ∧ (Instr.reserved11 0#4).wf = false ∧ (Instr.reserved12 8#4).wf = false
    ∧ (Instr.reserved13 15#4).wf = false := by decide

theorem test_wf_accepts_jz : (Instr.jz 15#4).wf = true := by decide

/-- S9: 0x9F is refused, by name. -/
theorem test_decode_refuses_9f :
    (match decodeInstr 0x9F#8 with | .error (.undefinedOpcode b) => b == 0x9F#8 | _ => false) = true := by decide

theorem test_decode_refuses_no_byte :
    (match decodeBytes [] with | .error .noByte => true | _ => false) = true := by decide

/-! ### Decoding: words written out bit by bit from the encodings (table 2.1) -/

theorem test_decode_nop : decode 0b00001111#8 = .nop 15#4 := by decide
theorem test_decode_lda : decode 0b00011010#8 = .lda 10#4 := by decide
theorem test_decode_add : decode 0b00101111#8 = .add 15#4 := by decide
theorem test_decode_sub : decode 0b00110110#8 = .sub 6#4 := by decide
theorem test_decode_str : decode 0b01001010#8 = .str 10#4 := by decide
theorem test_decode_ldi : decode 0b01011111#8 = .ldi 15#4 := by decide
theorem test_decode_jmp : decode 0b01100001#8 = .jmp 1#4 := by decide
theorem test_decode_jc : decode 0b01110101#8 = .jc 5#4 := by decide
theorem test_decode_jz : decode 0b10001111#8 = .jz 15#4 := by decide
theorem test_decode_reserved9 : decode 0b10010000#8 = .reserved9 0#4 := by decide
theorem test_decode_reserved10 : decode 0b10100101#8 = .reserved10 5#4 := by decide
theorem test_decode_reserved11 : decode 0b10110000#8 = .reserved11 0#4 := by decide
theorem test_decode_reserved12 : decode 0b11001000#8 = .reserved12 8#4 := by decide
theorem test_decode_reserved13 : decode 0b11011111#8 = .reserved13 15#4 := by decide
theorem test_decode_out : decode 0b11100111#8 = .out 7#4 := by decide
theorem test_decode_hlt : decode 0b11111111#8 = .hlt 15#4 := by decide

theorem test_encode_lda : encode (.lda 10#4) = 0x1A#8 := by decide

theorem test_table_word : decodeTableWord 8 0x40 = some (.str 0#4) ∧ decodeTableWord 8 256 = none
    ∧ decodeTableWord 16 0x40 = none := by decide

/-- The descriptor of each opcode, and none for a reserved one (R55). -/
theorem test_descriptors : (descriptorOf 8#4).map (·.mnemonic) = some ['J', 'Z'] ∧ descriptorOf 9#4 = none
    ∧ (descriptorOf 14#4).map (·.operandKind.required) = some false := by decide

/-! ### Data movement (M1 to M12) -/

/-- M1 -/
theorem test_lda_keeps_flags : after (running 77#8 true true 2#4 [(2, 0x1A#8), (10, 5#8)])
    (fun t => (t.a, t.z, t.c, t.pc)) = some (5#8, true, true, 3#4) := by decide

/-- M4 -/
theorem test_lda_wraps : after (running 1#8 false false 15#4 [(15, 0x1F#8)])
    (fun t => (t.a, t.pc)) = some (31#8, 0#4) := by decide

/-- M8: a store to the running instruction's own byte. -/
theorem test_str_overwrites_itself : after (running 0#8 false false 6#4 [(6, 0x46#8)])
    (fun t => (t.memRead 6#4, t.pc, t.mem)) = some (0#8, 7#4, []) := by decide

/-- M7: a store to the next instruction, which is then fetched. -/
theorem test_str_seen_by_fetch : after (running 0xF0#8 false false 1#4 [(1, 0x42#8)])
    (fun t => (t.fetch, t.a)) = some (0xF0#8, 0xF0#8) := by decide

/-- M12 -/
theorem test_ldi_clears_high_nibble : after (running 0xAB#8 false false 0#4 [(0, 0x53#8)])
    (fun t => t.a) = some 0x03#8 := by decide

/-- M10: a zero loaded leaves Z alone. -/
theorem test_ldi_zero_keeps_z : after (running 200#8 false false 0#4 [(0, 0x50#8)])
    (fun t => (t.a, t.z)) = some (0#8, false) := by decide

/-! ### Arithmetic (A and B rows) -/

/-- A2, the source's example S1. -/
theorem test_add_wraps : after (running 255#8 false false 0#4 [(0, 0x29#8), (9, 1#8)])
    (fun t => (t.a, t.c, t.z)) = some (0#8, true, true) := by decide

/-- A12: the carry is not added in, and is cleared. -/
theorem test_add_ignores_carry : after (running 1#8 true true 0#4 [(0, 0x29#8), (9, 1#8)])
    (fun t => (t.a, t.c, t.z)) = some (2#8, false, false) := by decide

/-- B1, the source's example S2. -/
theorem test_sub_borrows : after (running 3#8 false false 0#4 [(0, 0x39#8), (9, 5#8)])
    (fun t => (t.a, t.c, t.z)) = some (254#8, true, false) := by decide

/-- B6 -/
theorem test_sub_equal : after (running 255#8 false true 0#4 [(0, 0x39#8), (9, 255#8)])
    (fun t => (t.a, t.c, t.z)) = some (0#8, false, true) := by decide

/-! ### Jumps (J rows) -/

/-- J2 -/
theorem test_jmp_to_itself : after (running 0#8 false false 5#4 [(5, 0x65#8)]) (fun t => t.pc) = some 5#4 := by decide

/-- J4 -/
theorem test_jc_taken : after (running 0#8 false true 2#4 [(2, 0x75#8)])
    (fun t => (t.pc, t.c)) = some (5#4, true) := by decide

/-- J6: not taken at 15, Z set instead of C. -/
theorem test_jc_not_taken : after (running 0#8 true false 15#4 [(15, 0x75#8)]) (fun t => t.pc) = some 0#4 := by decide

/-- J10 -/
theorem test_jz_taken : after (running 7#8 true false 2#4 [(2, 0x84#8)])
    (fun t => (t.pc, t.z)) = some (4#4, true) := by decide

/-- J9: the flag is tested, not A. -/
theorem test_jz_not_taken : after (running 0#8 false true 2#4 [(2, 0x84#8)]) (fun t => t.pc) = some 3#4 := by decide

/-! ### System (Y rows) -/

/-- Y2 -/
theorem test_nop_wraps : after (running 9#8 false false 15#4 [(15, 0x0B#8)])
    (fun t => (t.pc, t.a, t.status)) = some (0#4, 9#8, .running) := by decide

/-- Y4 -/
theorem test_out_ignores_nibble : after (running 255#8 false false 0#4 [(0, 0xE9#8)])
    (fun t => (t.out, t.a, t.pc)) = some (255#8, 255#8, 1#4) := by decide

/-- Y7 -/
theorem test_hlt_at_15 : after (running 0#8 false false 15#4 [(15, 0xFF#8)])
    (fun t => (t.status, t.pc)) = some (.halted, 0#4) := by decide

/-- Y8 -/
theorem test_tick_when_halted : after { running 1#8 true true 5#4 [(5, 0x51#8)] with status := .halted }
    (fun t => decide (t = { running 1#8 true true 5#4 [(5, 0x51#8)] with status := .halted })) = some true := by decide

/-! ### The exception (X rows) -/

/-- X1: the fault record, and nothing else moves. -/
theorem test_fault_9f : after (running 9#8 false false 1#4 [(1, 0x9F#8)])
    (fun t => decide (t = { running 9#8 false false 1#4 [(1, 0x9F#8)] with
      faultAddr := 1#4, faultByte := 0x9F#8, status := .faulted })) = some true := by decide

/-- X2: no wrap and no advance at 15. -/
theorem test_fault_d0_at_15 : after (running 1#8 false true 15#4 [(15, 0xD0#8)])
    (fun t => (t.status, t.faultAddr, t.faultByte, t.pc)) = some (.faulted, 15#4, 0xD0#8, 15#4) := by decide

theorem test_fault_a5 : after (running 0#8 false false 0#4 [(0, 0xA5#8)]) (fun t => t.cause?)
    = some (some (.undefinedOpcode 0#4 0xA5#8)) := by decide

theorem test_fault_b0 : after (running 0#8 false false 0#4 [(0, 0xB0#8)]) (fun t => t.faultByte)
    = some 0xB0#8 := by decide

/-- X3 -/
theorem test_fault_c8 : after (running 0#8 false false 0#4 [(0, 0xC8#8)]) (fun t => (t.status, t.faultByte))
    = some (.faulted, 0xC8#8) := by decide

/-! ### Reset, loader, placing a word -/

/-- L2: the image of a six-byte file, zero-padded. -/
theorem test_load_pads : Memory.bytes (State.load [0x55#8, 0x4A#8, 0x1A#8, 0x2A#8, 0xE0#8, 0xF0#8]).mem
    = [0x55#8, 0x4A#8, 0x1A#8, 0x2A#8, 0xE0#8, 0xF0#8, 0#8, 0#8, 0#8, 0#8, 0#8, 0#8, 0#8, 0#8, 0#8, 0#8] := by decide

/-- L4: bytes 16 and 17 are dropped. -/
theorem test_load_truncates : Memory.bytes (State.load ((List.range 18).map (BitVec.ofNat 8))).mem
    = (List.range 16).map (BitVec.ofNat 8) := by decide

theorem test_withFetchWord : after (State.reset.withFetchWord 8 0x57) (fun t => (t.a, t.pc)) = some (7#8, 1#4) := by
  decide

/-! ### The assembler (T rows) -/

/-- T1, T4, T5, T8, T9 -/
theorem test_assemble_lines : assemble [['L', 'D', 'I', ' ', '5'], ['H', 'L', 'T', ' ', ';', ' ', 's'],
    ['2', '0', '0'], [], [';', ' ', 'o']] = [0x55#8, 0xF0#8, 0xC8#8, 0x00#8, 0x00#8] := by decide

/-- T7, T10 to T16 -/
theorem test_assemble_corners : assemble [['2', '5', '6'], ['L', 'D', 'A'], ['O', 'U', 'T', ' ', '5'],
    ['A', 'D', 'D', ' ', '2', '6'], ['L', 'D', 'A', ' ', 'x'], ['l', 'd', 'a', ' ', '5'], ['F', 'O', 'O'],
    ['L', 'D', 'A', ' ', '3', '0', '0']] = [0#8, 0x10#8, 0xE5#8, 0x2A#8, 0#8, 0#8, 0#8, 0#8] := by decide

/-- N9: two spaces leave an operand token that does not parse. -/
theorem test_assemble_two_spaces : assembleLine? ['L', 'D', 'A', ' ', ' ', '5'] = none := by decide

theorem test_disassemble : disassemble 0x8F#8 = ['J', 'Z', ' ', '1', '5'] ∧ disassemble 0xE7#8 = ['O', 'U', 'T']
    ∧ disassemble 0xC8#8 = ['2', '0', '0'] := by decide

/-! ### Witnesses: for each obligation with hypotheses, operands that meet them -/

/-- IsaTableIsTheOpcodeMap, AssemblerPacksInstructionLines, FieldsRoundTrip: a row of the opcode map. -/
theorem witness_opcodeMap : (⟨['J', 'Z'], 8#4, .address, true⟩ : OpcodeMapRow) ∈ opcodeMap := by decide

/-- DecoderPartitionsTheBytes, at the four boundary bytes. -/
theorem witness_DecoderPartitionsTheBytes : (0x8F#8).toNat < 144 ∧ 144 ≤ (0x90#8).toNat ∧ (0xDF#8).toNat < 224
    ∧ 224 ≤ (0xE0#8).toNat := by decide

/-- StrStoresTheAccumulator and StrFrame: an address other than the stored one, and a next state. -/
theorem witness_StrFrame : (∃ t, exec (.str 15#4) State.reset = .next t) ∧ (0#4 : Addr) ≠ dataAddress 15#4 :=
  ⟨⟨_, rfl⟩, by decide⟩

/-- ZeroFlagTestsTheWrappedResult, its clauses on inputs 128 + 128, 0 + 0 and 5 - 5, and on ADD and SUB. -/
theorem witness_ZeroFlagTestsTheWrappedResult : ((aluAdd 128#8 128#8).zero = true ∧ (aluAdd 128#8 128#8).carry = true)
    ∧ ((aluAdd 0#8 0#8).zero = true ∧ (aluAdd 0#8 0#8).carry = false) ∧ (aluSub 5#8 5#8).zero = true
    ∧ (∃ t, exec (.add 3#4) State.reset = .next t) ∧ ∃ t, exec (.sub 3#4) State.reset = .next t :=
  ⟨by decide, by decide, by decide, ⟨_, rfl⟩, ⟨_, rfl⟩⟩

/-- CanonicalMemoryIsItsBytes. -/
theorem witness_CanonicalMemoryIsItsBytes : Memory.wf [(3, 5#8), (15, 1#8)] = true
    ∧ ∀ k : Addr, Memory.read [(3, 5#8), (15, 1#8)] k = Memory.read [(3, 5#8), (15, 1#8)] k :=
  ⟨by decide, fun _ => rfl⟩

/-- The canonical form refuses a wrong order, an address of 16, and a listed zero. -/
theorem test_wf_memory : Memory.wf [(15, 1#8), (3, 5#8)] = false ∧ Memory.wf [(16, 1#8)] = false
    ∧ Memory.wf [(3, 0#8)] = false := by decide

/-- StoreIsSeenByTheNextFetch, stored at the next address, at another, and at the STR's own, each with the later state
that fetches it. -/
theorem witness_StoreIsSeenByTheNextFetch :
    ((running 7#8 false false 1#4 [(1, 0x42#8)]).status = .running
      ∧ (running 7#8 false false 1#4 [(1, 0x42#8)]).fetch = 0b0100#4 ++ 2#4)
    ∧ (running 7#8 false false 1#4 [(1, 0x43#8)]).fetch = 0b0100#4 ++ 3#4
    ∧ (running 7#8 false false 1#4 [(1, 0x41#8)]).fetch = 0b0100#4 ++ 1#4
    ∧ after (running 7#8 false false 1#4 [(1, 0x41#8)]) (fun t => (t.setPc 1#4).mem == t.mem && (t.setPc 1#4).pc == 1#4)
      = some true := by decide

/-- OnlyStrChangesMemory. -/
theorem witness_OnlyStrChangesMemory : (∀ n, Instr.lda 3#4 ≠ .str n) ∧ ∃ t, exec (.lda 3#4) State.reset = .next t :=
  ⟨by decide, ⟨_, rfl⟩⟩

/-- EachRegisterHasItsWriters. -/
theorem witness_EachRegisterHasItsWriters : ∃ t, exec (.out 0#4) (running 5#8 false false 0#4 []) = .next t :=
  ⟨_, rfl⟩

/-- PcOfTheNextState, a reserved row, a taken and an untaken jump, and the last address. -/
theorem witness_PcOfTheNextState :
    ((∃ t, exec (.reserved9 0#4) State.reset = .next t) ∧ (Instr.reserved9 0#4).wf = false)
    ∧ ((∃ t, exec (.jc 3#4) (running 0#8 false true 0#4 []) = .next t) ∧ (running 0#8 false true 0#4 []).c = true)
    ∧ ((∃ t, exec (.jc 3#4) (running 0#8 true false 15#4 []) = .next t) ∧ (Instr.jc 3#4).wf = true
      ∧ (∀ n, Instr.jc 3#4 ≠ .jmp n) ∧ (running 0#8 true false 15#4 []).c = false
      ∧ (∀ n, Instr.jc 3#4 ≠ .jz n) ∧ (running 0#8 true false 15#4 []).pc.toNat = 15) :=
  ⟨⟨⟨_, rfl⟩, by decide⟩, ⟨⟨_, rfl⟩, by decide⟩, ⟨_, rfl⟩, by decide⟩

/-- FaultRecordIsNeverRead, a step that faults and one that does not. -/
theorem witness_FaultRecordIsNeverRead : State.reset.status = .running
    ∧ after (running 0#8 false false 0#4 [(0, 0x9F#8)]) (fun t => t.status) = some .faulted
    ∧ after State.reset (fun t => t.status) = some .running := by decide

/-- StepRunsTheDecodedInstruction, each of its three clauses. -/
theorem witness_StepRunsTheDecodedInstruction :
    ((running 0#8 false false 4#4 [(4, 0x1A#8)]).status = .running
      ∧ (running 0#8 false false 4#4 [(4, 0x1A#8)]).memRead 4#4 = encode (.lda 10#4))
    ∧ ({ State.reset with status := .halted } : State).status ≠ .running := by decide

/-- PlacedWordIsTheOneThatRuns: another address than the PC. -/
theorem witness_PlacedWordIsTheOneThatRuns : (1#4 : Addr) ≠ State.reset.pc := by decide

/-- UndefinedOpcodeIsTaken, the first and the last reserved byte. -/
theorem witness_UndefinedOpcodeIsTaken : (running 0#8 false false 0#4 [(0, 0x90#8)]).status = .running
    ∧ 144 ≤ ((running 0#8 false false 0#4 [(0, 0x90#8)]).memRead 0#4).toNat
    ∧ ((running 0#8 false false 0#4 [(0, 0xDF#8)]).memRead 0#4).toNat < 224 := by decide

/-- RunStateTransitions, the boundary bytes of its clauses. -/
theorem witness_RunStateTransitions :
    after (running 0#8 false false 0#4 [(0, 0x8F#8)]) (fun t => t.status) = some .running
    ∧ after (running 0#8 false false 0#4 [(0, 0x90#8)]) (fun t => t.status) = some .faulted
    ∧ after (running 0#8 false false 0#4 [(0, 0xDF#8)]) (fun t => t.status) = some .faulted
    ∧ after (running 0#8 false false 0#4 [(0, 0xE0#8)]) (fun t => t.status) = some .running
    ∧ after (running 0#8 false false 0#4 [(0, 0xEF#8)]) (fun t => t.status) = some .running
    ∧ after (running 0#8 false false 0#4 [(0, 0xF0#8)]) (fun t => t.status) = some .halted := by decide

/-- TerminalStatesNeverChange, both terminal states. -/
theorem witness_TerminalStatesNeverChange : ({ State.reset with status := .halted } : State).status ≠ .running
    ∧ ({ State.reset with status := .faulted } : State).status ≠ .running := by decide

/-- SelfJumpNeverLeaves. -/
theorem witness_SelfJumpNeverLeaves : (running 0#8 false false 5#4 [(5, 0x65#8)]).status = .running
    ∧ (running 0#8 false false 5#4 [(5, 0x65#8)]).fetch = 0b0110#4 ++ 5#4 := by decide

/-- StepIsTheDatapathStep. -/
theorem witness_StepIsTheDatapathStep : State.reset.status = .running := by decide

/-- StepKeepsTheInvariants: a running state about to fault meets the invariants, and the faulted state after it, whose
record is the byte and address; each has a step that answers a next state. -/
theorem witness_StepKeepsTheInvariants :
    (State.Inv (running 9#8 false false 1#4 [(1, 0x9F#8)])
      ∧ ∃ t, step (running 9#8 false false 1#4 [(1, 0x9F#8)]) = .next t)
    ∧ (State.Inv { running 9#8 false false 1#4 [(1, 0x9F#8)] with
        status := .faulted, faultAddr := 1#4, faultByte := 0x9F#8 }
      ∧ ∃ t, step { running 9#8 false false 1#4 [(1, 0x9F#8)] with
        status := .faulted, faultAddr := 1#4, faultByte := 0x9F#8 } = .next t) :=
  ⟨⟨⟨by decide, by decide, by decide⟩, ⟨_, rfl⟩⟩, ⟨⟨by decide, by decide, by decide⟩, ⟨_, rfl⟩⟩⟩

/-- EveryEventSequenceKeepsTheInvariants. -/
theorem witness_EveryEventSequenceKeepsTheInvariants : State.Inv State.reset :=
  ⟨by decide, by decide, by decide⟩

/-- LoaderTruncatesAndPads and SourceLineBecomesItsAddress: inside the file, and beyond it. -/
theorem witness_LoaderTruncatesAndPads : (1#4 : Addr).toNat < [0x55#8, 0x4A#8].length
    ∧ ¬(2#4 : Addr).toNat < [0x55#8, 0x4A#8].length := by decide

/-- ViewTellsHaltFromFault, the three run states. -/
theorem witness_ViewTellsHaltFromFault : ({ State.reset with status := .faulted } : State).status = .faulted
    ∧ ({ State.reset with status := .halted } : State).view.halted = true
    ∧ State.reset.status ≠ .faulted := by decide

/-- AssemblerPacksInstructionLines and FieldsRoundTrip: a descriptor of the table and the boundary values. -/
theorem witness_AssemblerPacksInstructionLines : (⟨5#4, ['L', 'D', 'I'], .literal⟩ : Descriptor) ∈ isaTable
    ∧ 255 < 256 ∧ assembleLine ['L', 'D', 'I', ' ', '2', '5', '5'] = 0x5F#8 := by decide

/-- RawLinesAreEmittedVerbatim: a raw line, and a line that does not parse. -/
theorem witness_RawLinesAreEmittedVerbatim : descriptorNamed (codeToken (codeText ['2', '0', '0'])) = none
    ∧ assembleLine? ['F', 'O', 'O'] = none ∧ 255 < 256 := by decide

/-- BlankLinesAndComments: white space before a comment. -/
theorem witness_BlankLinesAndComments : (stripComment [' ', '\t', ';', 'x']).all isSpace = true := by decide

end Sys2Proof.Tests
end

section
/-! Memory as the state sees it (spec/20_memory.md R28). -/

namespace Sys2Proof.Machine

/-- Read-after-write of a state, from the law of its memory. -/
@[simp] theorem State.memRead_memWrite (s : State) (n k : Addr) (v : Byte) :
    (s.memWrite n v).memRead k = if k = n then v else s.memRead k :=
  Memory.read_write s.mem n v k

/-- The frame of a write (R28). -/
theorem State.memWrite_frame (s : State) (n : Addr) (v : Byte) :
    s.memWrite n v = { s with mem := (s.memWrite n v).mem } := rfl

/-- Settles O25: the read-after-write law and the frame of a write. -/
theorem memoryReadsAndWrites : Obligations.MemoryReadsAndWrites :=
  fun s n k v => ⟨s.memRead_memWrite n k v, s.memWrite_frame n v⟩

end Sys2Proof.Machine
end

section
/-! The byte and its row: encoding and decoding are inverse (spec/30_encoding.md R42 to R54). -/

namespace Sys2Proof

/-! ### The two fields of a byte -/

/-- The packed byte as a number (R45). -/
theorem packByte_toNat (k o : Nibble) : (packByte k o).toNat = k.toNat * 16 + o.toNat := by
  rw [packByte, BitVec.toNat_append, ← Nat.shiftLeft_add_eq_or_of_lt o.isLt, Nat.shiftLeft_eq]

/-- The packed byte as a shift and an or (R45). -/
theorem packByte_eq_shiftLeft_or (k o : Nibble) :
    packByte k o = ((k.setWidth 8 : Byte) <<< 4) ||| o.setWidth 8 := by
  apply BitVec.eq_of_toNat_eq
  have fits : k.toNat <<< 4 < 2 ^ 8 := by rw [Nat.shiftLeft_eq]; omega
  have hk : k.toNat < 2 ^ 8 := by omega
  have ho : o.toNat < 2 ^ 8 := by omega
  simp only [packByte, BitVec.toNat_append, BitVec.toNat_or, BitVec.toNat_shiftLeft, BitVec.toNat_setWidth,
    Nat.mod_eq_of_lt hk, Nat.mod_eq_of_lt ho, Nat.mod_eq_of_lt fits]

/-- A byte is put together again from its halves (R45). -/
@[simp] theorem packByte_opcodeOf_operandOf (b : Byte) : packByte (opcodeOf b) (operandOf b) = b := by
  apply BitVec.eq_of_toNat_eq
  rw [packByte_toNat, opcodeOf_toNat, operandOf_toNat]
  omega

/-- The opcode as the byte shifted right (R44). -/
theorem opcodeOf_setWidth (b : Byte) : (opcodeOf b).setWidth 8 = b >>> 4 := by
  apply BitVec.eq_of_toNat_eq
  have hb := b.isLt
  rw [BitVec.toNat_setWidth, opcodeOf_toNat, BitVec.toNat_ushiftRight, Nat.shiftRight_eq_div_pow]
  omega

/-- The operand as the byte under the mask of its low nibble (R44). -/
theorem operandOf_setWidth (b : Byte) : (operandOf b).setWidth 8 = b &&& 0x0F#8 := by
  apply BitVec.eq_of_toNat_eq
  have mask : b.toNat &&& (0x0F#8).toNat = b.toNat % 16 := Nat.and_two_pow_sub_one_eq_mod b.toNat 4
  rw [BitVec.toNat_setWidth, operandOf_toNat, BitVec.toNat_and, mask]
  omega

/-! ### The row of a byte -/

/-- A row is the one its opcode and operand stand for. -/
@[simp] theorem instrOf_opcode_operand (i : Instr) : instrOf i.opcode i.operand = i := by
  cases i <;> rfl

/-- The well-formed rows are those whose opcode is not reserved (R50). -/
theorem Instr.wf_eq (i : Instr) : i.wf = !(decide (9 ≤ i.opcode.toNat) && decide (i.opcode.toNat ≤ 13)) := by
  cases i <;> rfl

/-- Decoding a packed byte goes to the row of its fields. -/
@[simp] theorem decode_packByte (k o : Nibble) : decode (packByte k o) = instrOf k o := by
  rw [decode, opcodeOf_packByte, operandOf_packByte]

theorem decode_opcode (b : Byte) : (decode b).opcode = opcodeOf b :=
  instrOf_opcode (opcodeOf b) (operandOf b)

theorem decode_operand (b : Byte) : (decode b).operand = operandOf b :=
  instrOf_operand (opcodeOf b) (operandOf b)

@[simp] theorem decode_encode (i : Instr) : decode (encode i) = i := by
  rw [encode, decode_packByte, instrOf_opcode_operand]

@[simp] theorem encode_decode (b : Byte) : encode (decode b) = b := by
  rw [encode, decode_opcode, decode_operand, packByte_opcodeOf_operandOf]

/-- The decoder takes exactly the instruction's one byte and leaves the rest (R42). -/
theorem decodeBytes_encodeBytes_append (i : Instr) (rest : List Byte) :
    decodeBytes (encodeBytes i ++ rest) = .ok (i, rest) := by
  rw [encodeBytes, List.singleton_append, decodeBytes, decode_encode]

/-- Settles O1: a row is determined by the opcode and the operand that its byte packs. -/
theorem decodeOfEncodeGivesTheInstruction : Obligations.DecodeOfEncodeGivesTheInstruction :=
  fun i => ⟨decode_encode i, decodeBytes_encodeBytes_append i⟩

/-- Settles O2: the decoded row keeps both fields of the byte. -/
theorem encodeOfDecodeGivesTheByte : Obligations.EncodeOfDecodeGivesTheByte :=
  encode_decode

/-- Settles O4: the two fields as shift and mask, as quotient and remainder, and as the row's own. -/
theorem decoderSplitsTheByte : Obligations.DecoderSplitsTheByte :=
  fun b => ⟨opcodeOf_setWidth b, opcodeOf_toNat b, operandOf_setWidth b, operandOf_toNat b,
    decode_opcode b, decode_operand b⟩

/-- Settles O5: thirteen closed evaluations of the decoder. -/
theorem someWordsDecodeAsTheSpecSays : Obligations.SomeWordsDecodeAsTheSpecSays := by
  unfold Obligations.SomeWordsDecodeAsTheSpecSays
  decide

/-- Settles O7: the row's own statement, row by row. -/
theorem everyRowHasItsTableBits : Obligations.EveryRowHasItsTableBits
  | .nop x => Laws.TableRow.nop x
  | .lda x => Laws.TableRow.lda x
  | .add x => Laws.TableRow.add x
  | .sub x => Laws.TableRow.sub x
  | .str x => Laws.TableRow.str x
  | .ldi x => Laws.TableRow.ldi x
  | .jmp x => Laws.TableRow.jmp x
  | .jc x => Laws.TableRow.jc x
  | .jz x => Laws.TableRow.jz x
  | .reserved9 x => Laws.TableRow.reserved9 x
  | .reserved10 x => Laws.TableRow.reserved10 x
  | .reserved11 x => Laws.TableRow.reserved11 x
  | .reserved12 x => Laws.TableRow.reserved12 x
  | .reserved13 x => Laws.TableRow.reserved13 x
  | .out x => Laws.TableRow.out x
  | .hlt x => Laws.TableRow.hlt x

end Sys2Proof
end

section
/-! The ISA table against the opcode map, and which bytes are instructions (spec/30_encoding.md R46, R49 to R55). -/

namespace Sys2Proof.Machine

/-! ### The ISA table and its two lookups -/

/-- The ISA table is the opcode map written out from R49 and R46, row for row. -/
theorem isaTable_eq_opcodeMap :
    isaTable.map (fun d => (⟨d.mnemonic, d.opcode, d.operandKind, d.operandKind.required⟩ : OpcodeMapRow))
      = opcodeMap := rfl

/-- The descriptor a row of the opcode map gives is in the ISA table. -/
theorem descriptor_mem_isaTable {row : OpcodeMapRow} (h : row ∈ opcodeMap) :
    (⟨row.opcode, row.mnemonic, row.operandKind⟩ : Descriptor) ∈ isaTable := by
  rw [← isaTable_eq_opcodeMap] at h
  obtain ⟨d, hd, rfl⟩ := List.mem_map.mp h
  exact hd

/-- No two descriptors share a mnemonic: the lookup by mnemonic finds each (R55). -/
theorem descriptorNamed_mnemonic : ∀ d ∈ isaTable, descriptorNamed d.mnemonic = some d := by
  decide

/-- No two descriptors share an opcode: the lookup by opcode finds each (R55). -/
theorem descriptorOf_opcode : ∀ d ∈ isaTable, descriptorOf d.opcode = some d := by
  decide

/-- A reserved opcode finds no descriptor (R50). -/
theorem descriptorOf_reserved :
    ∀ k : Nibble, 9 ≤ k.toNat → k.toNat ≤ 13 → descriptorOf k = none := by
  decide

/-- Every opcode that is not reserved has its row in the opcode map (R49). -/
theorem exists_row_of_not_reserved :
    ∀ k : Nibble, k.toNat < 9 ∨ 13 < k.toNat → ∃ row ∈ opcodeMap, row.opcode = k := by
  decide

/-- Settles O56: both lookups find each descriptor, and the table is the opcode map. -/
theorem isaTableIsTheOpcodeMap : Obligations.IsaTableIsTheOpcodeMap := by
  refine ⟨fun x => ?_, ⟨rfl, rfl, rfl⟩, isaTable_eq_opcodeMap, fun row h => ?_⟩
  · exact ⟨rfl, rfl, rfl, rfl, rfl, rfl, rfl, rfl, rfl, rfl, rfl, rfl, rfl, rfl, rfl, rfl⟩
  · have hd := descriptor_mem_isaTable h
    exact ⟨descriptorNamed_mnemonic _ hd, descriptorOf_opcode _ hd⟩

/-! ### The reserved bytes -/

/-- The reserved bytes are 0x90 to 0xDF (R50). -/
theorem isReservedByte_iff (b : Byte) : isReservedByte b = true ↔ 144 ≤ b.toNat ∧ b.toNat < 224 := by
  simp only [isReservedByte, Bool.and_eq_true, decide_eq_true_eq, opcodeOf_toNat]
  omega

theorem isReservedByte_eq_false_iff (b : Byte) :
    isReservedByte b = false ↔ b.toNat < 144 ∨ 224 ≤ b.toNat := by
  rw [← Bool.not_eq_true, isReservedByte_iff]
  omega

/-- The bytes that decode to an instruction are those that are not reserved. -/
theorem decode_wf (b : Byte) : (decode b).wf = !isReservedByte b := by
  rw [Instr.wf_eq, decode_opcode, isReservedByte]

theorem decodeInstr_of_not_reserved {b : Byte} (h : isReservedByte b = false) : decodeInstr b = .ok (decode b) := by
  simp [decodeInstr, decode_wf, h]

theorem decodeInstr_of_reserved {b : Byte} (h : isReservedByte b = true) :
    decodeInstr b = .error (.undefinedOpcode b) := by
  simp [decodeInstr, decode_wf, h]

/-- A byte that is not reserved has its opcode's row in the opcode map, and its descriptor (R49, R53). -/
theorem exists_row_of_byte {b : Byte} (h : b.toNat < 144 ∨ 224 ≤ b.toNat) :
    ∃ row ∈ opcodeMap, row.opcode = opcodeOf b
      ∧ descriptorOf (opcodeOf b) = some ⟨row.opcode, row.mnemonic, row.operandKind⟩ := by
  have notReserved : (opcodeOf b).toNat < 9 ∨ 13 < (opcodeOf b).toNat := by rw [opcodeOf_toNat]; omega
  obtain ⟨row, hrow, hk⟩ := exists_row_of_not_reserved _ notReserved
  exact ⟨row, hrow, hk, hk ▸ descriptorOf_opcode _ (descriptor_mem_isaTable hrow)⟩

/-- A reserved byte's opcode finds no descriptor. -/
theorem descriptorOf_reservedByte {b : Byte} (low : 144 ≤ b.toNat) (high : b.toNat < 224) :
    descriptorOf (opcodeOf b) = none := by
  apply descriptorOf_reserved <;> rw [opcodeOf_toNat] <;> omega

/-! ### How many bytes are instructions (R52) -/

/-- How much of an interval lies below a bound. -/
theorem countP_range_interval {low high : Nat} (h : low ≤ high) (n : Nat) :
    (List.range n).countP (fun k => decide (low ≤ k ∧ k < high)) = min n high - low := by
  induction n with
  | zero => simp
  | succ n ih =>
    rw [List.range_succ, List.countP_append, ih, List.countP_singleton]
    simp only [decide_eq_true_eq]
    split <;> omega

/-- 80 of the 256 bytes decode to a reserved row. -/
theorem countP_reserved : (List.range 256).countP (fun n => !(decode (BitVec.ofNat 8 n)).wf) = 80 := by
  have reserved : ∀ n ∈ List.range 256,
      (!(decode (BitVec.ofNat 8 n)).wf) = true ↔ decide (144 ≤ n ∧ n < 224) = true := by
    intro n hn
    have hn : n < 256 := List.mem_range.mp hn
    rw [decode_wf, Bool.not_not, isReservedByte_iff, BitVec.toNat_ofNat, decide_eq_true_eq]
    omega
  rw [List.countP_congr reserved, countP_range_interval (by decide)]
  decide

/-- The other 176 decode to an instruction. -/
theorem countP_wf : (List.range 256).countP (fun n => (decode (BitVec.ofNat 8 n)).wf) = 176 := by
  have total := List.length_eq_countP_add_countP (fun n => (decode (BitVec.ofNat 8 n)).wf) (l := List.range 256)
  have reserved := countP_reserved
  simp only [List.length_range, Bool.not_eq_true, Bool.decide_eq_false] at total
  omega

/-- Settles O6: the reserved bytes are one interval, and every other opcode has its row. -/
theorem decoderPartitionsTheBytes : Obligations.DecoderPartitionsTheBytes := by
  refine ⟨fun b h => ?_, fun b low high => ?_, countP_wf, countP_reserved⟩
  · have notReserved := (isReservedByte_eq_false_iff b).mpr h
    exact ⟨decodeInstr_of_not_reserved notReserved, by rw [decode_wf, notReserved]; rfl, exists_row_of_byte h⟩
  · have reserved := (isReservedByte_iff b).mpr ⟨low, high⟩
    exact ⟨decodeInstr_of_reserved reserved, by rw [decode_wf, reserved]; rfl, descriptorOf_reservedByte low high⟩

end Sys2Proof.Machine
end

section
/-! What the assembler emits for an instruction line (spec/30_encoding.md R57 to R65). -/

namespace Sys2Proof.Machine

/-! ### Decimal numbers -/

theorem digitChar_toNat : ∀ n < 10, (digitChar n).toNat = 48 + n := by
  decide

theorem isDecimalDigit_digitChar {n : Nat} (h : n < 10) : isDecimalDigit (digitChar n) = true := by
  simp only [isDecimalDigit, digitChar_toNat n h, Bool.and_eq_true, decide_eq_true_eq, Char.reduceToNat]
  omega

theorem decimal_ne_nil (v : Nat) : decimal v ≠ [] := by
  unfold decimal
  split
  · simp
  · split <;> simp

theorem isDecimalDigit_of_mem_decimal {v : Nat} (h : v < 1000) : ∀ c ∈ decimal v, isDecimalDigit c = true := by
  have hundreds := @isDecimalDigit_digitChar (v / 100) (by omega)
  have tens := @isDecimalDigit_digitChar (v / 10 % 10) (by omega)
  have ones := @isDecimalDigit_digitChar (v % 10) (by omega)
  unfold decimal
  split
  · simpa using isDecimalDigit_digitChar ‹v < 10›
  · split
    · have leading := @isDecimalDigit_digitChar (v / 10) (by omega)
      simp [leading, ones]
    · simp [hundreds, tens, ones]

/-- Reading back what `decimal` writes. -/
theorem decimalValue_decimal {v : Nat} (h : v < 1000) : decimalValue (decimal v) = v := by
  have hundreds := digitChar_toNat (v / 100) (by omega)
  have tens := digitChar_toNat (v / 10 % 10) (by omega)
  have ones := digitChar_toNat (v % 10) (by omega)
  unfold decimal
  split
  · simp [decimalValue, digitChar_toNat v ‹_›]
  · split
    · simp [decimalValue, digitChar_toNat (v / 10) (by omega), ones]
      omega
    · simp [decimalValue, hundreds, tens, ones]
      omega

/-- A byte written in decimal parses to itself (R61). -/
theorem parseByte_decimal {v : Nat} (h : v < 256) : parseByte (decimal v) = some (BitVec.ofNat 8 v) := by
  have digits : (decimal v).all isDecimalDigit = true :=
    List.all_eq_true.mpr (isDecimalDigit_of_mem_decimal (by omega))
  simp [parseByte, decimal_ne_nil, digits, decimalValue_decimal (show v < 1000 by omega)]
  omega

/-! ### Words and the tokens of a line -/

/-- Text that neither trimming, nor the comment rule, nor the split at a space cuts. -/
def IsWord (w : List Char) : Prop := w ≠ [] ∧ ∀ c ∈ w, isSpace c = false ∧ c ≠ ';'

theorem IsWord.ne_space {w : List Char} (hw : IsWord w) : ∀ c ∈ w, (c != ' ') = true := by
  intro c hc
  have notSpace := (hw.2 c hc).1
  rw [bne_iff_ne]
  rintro rfl
  exact absurd notSpace (by decide)

theorem isWord_mnemonic : ∀ d ∈ isaTable, IsWord d.mnemonic := by
  simp [isaTable, IsWord, isSpace]

theorem isWord_decimal {v : Nat} (h : v < 1000) : IsWord (decimal v) := by
  refine ⟨decimal_ne_nil v, fun c hc => ?_⟩
  have digit := isDecimalDigit_of_mem_decimal h c hc
  constructor
  · rw [← Bool.not_eq_true]
    intro space
    simp only [isSpace, Bool.or_eq_true, beq_iff_eq] at space
    rcases space with ((rfl | rfl) | rfl) | rfl <;> exact absurd digit (by decide)
  · rintro rfl
    exact absurd digit (by decide)

theorem stripComment_eq_self {line : List Char} (h : ∀ c ∈ line, c ≠ ';') : stripComment line = line :=
  List.takeWhile_eq_self_iff.mpr (by simpa using h)

/-- Trimming the front leaves text that begins with no white space. -/
theorem dropWhile_isSpace_eq_self {line : List Char} (h : ∀ c ∈ line.head?, isSpace c = false) :
    line.dropWhile isSpace = line := by
  cases line with
  | nil => rfl
  | cons c rest => simp [h c rfl]

/-- Trimming leaves text with no white space at its ends. -/
theorem trim_eq_self {line : List Char} (first : ∀ c ∈ line.head?, isSpace c = false)
    (last : ∀ c ∈ line.getLast?, isSpace c = false) : trim line = line := by
  rw [trim, dropWhile_isSpace_eq_self first, dropWhile_isSpace_eq_self (by rwa [List.head?_reverse]),
    List.reverse_reverse]

theorem codeText_word {w : List Char} (hw : IsWord w) : codeText w = w := by
  rw [codeText, stripComment_eq_self fun c hc => (hw.2 c hc).2]
  exact trim_eq_self (fun c hc => (hw.2 c (List.mem_of_mem_head? hc)).1)
    (fun c hc => (hw.2 c (List.mem_of_mem_getLast? hc)).1)

theorem codeText_two_words {m w : List Char} (hm : IsWord m) (hw : IsWord w) :
    codeText (m ++ ' ' :: w) = m ++ ' ' :: w := by
  have noComment : ∀ c ∈ m ++ ' ' :: w, c ≠ ';' := by
    intro c hc
    rcases List.mem_append.mp hc with hc | hc
    · exact (hm.2 c hc).2
    · rcases List.mem_cons.mp hc with rfl | hc
      · decide
      · exact (hw.2 c hc).2
  rw [codeText, stripComment_eq_self noComment]
  apply trim_eq_self
  · rw [List.head?_append_of_ne_nil _ hm.1]
    exact fun c hc => (hm.2 c (List.mem_of_mem_head? hc)).1
  · have sameLast : (m ++ ' ' :: w).getLast? = w.getLast? := by
      rw [List.getLast?_append_of_ne_nil _ (List.cons_ne_nil _ _), List.getLast?_cons_of_ne_nil hw.1]
    rw [sameLast]
    exact fun c hc => (hw.2 c (List.mem_of_mem_getLast? hc)).1

theorem codeToken_word {w : List Char} (hw : IsWord w) : codeToken w = w :=
  List.takeWhile_eq_self_iff.mpr hw.ne_space

theorem operandToken_word {w : List Char} (hw : IsWord w) : operandToken w = [] := by
  rw [operandToken, List.dropWhile_eq_nil_iff.mpr hw.ne_space, List.drop_nil]

theorem codeToken_two_words {m : List Char} (hm : IsWord m) (w : List Char) : codeToken (m ++ ' ' :: w) = m := by
  simp [codeToken, List.takeWhile_append_of_pos hm.ne_space]

theorem operandToken_two_words {m : List Char} (hm : IsWord m) (w : List Char) :
    operandToken (m ++ ' ' :: w) = w := by
  simp [operandToken, List.dropWhile_append_of_pos hm.ne_space]

/-! ### Instruction lines -/

theorem operandOf_ofNat (v : Nat) : operandOf (BitVec.ofNat 8 v) = BitVec.ofNat 4 v := by
  apply BitVec.eq_of_toNat_eq
  rw [operandOf_toNat, BitVec.toNat_ofNat, BitVec.toNat_ofNat]
  omega

/-- A bare mnemonic is emitted with a zero low nibble (R59, R65). -/
theorem assembleLine_mnemonic {d : Descriptor} (hd : d ∈ isaTable) :
    assembleLine d.mnemonic = packByte d.opcode 0#4 := by
  have hm := isWord_mnemonic d hd
  simp [assembleLine, assembleLine?, assembleInstruction, codeText_word hm, codeToken_word hm,
    operandToken_word hm, descriptorNamed_mnemonic d hd]

/-- A mnemonic with an operand is emitted with the operand masked to 4 bits (R59; D16). -/
theorem assembleLine_sourceLine {d : Descriptor} (hd : d ∈ isaTable) {v : Nat} (hv : v < 256) :
    assembleLine (sourceLine d v) = packByte d.opcode (BitVec.ofNat 4 v) := by
  have hm := isWord_mnemonic d hd
  have hw : IsWord (decimal v) := isWord_decimal (by omega)
  simp [assembleLine, assembleLine?, assembleInstruction, sourceLine, codeText_two_words hm hw,
    codeToken_two_words hm, operandToken_two_words hm, descriptorNamed_mnemonic d hd, decimal_ne_nil,
    parseByte_decimal hv, operandOf_ofNat]

/-- Assembling a mnemonic with a nibble packs the two (R45). -/
theorem assembleLine_sourceLine_nibble {d : Descriptor} (hd : d ∈ isaTable) (o : Nibble) :
    assembleLine (sourceLine d o.toNat) = packByte d.opcode o := by
  have ho := o.isLt
  rw [assembleLine_sourceLine hd (by omega), BitVec.ofNat_toNat, BitVec.setWidth_eq]

/-- Settles O52: a row of the opcode map is assembled as its descriptor in the ISA table. -/
theorem assemblerPacksInstructionLines : Obligations.AssemblerPacksInstructionLines := by
  constructor
  · exact fun d hd => ⟨assembleLine_mnemonic hd, fun v hv => assembleLine_sourceLine hd hv⟩
  · intro row hrow
    have hd := descriptor_mem_isaTable hrow
    exact ⟨assembleLine_mnemonic hd, fun v hv => assembleLine_sourceLine hd hv⟩

/-- Settles O3: packing and splitting are inverse, and the assembler packs what the decoder splits. -/
theorem fieldsRoundTrip : Obligations.FieldsRoundTrip := by
  have assembled : ∀ d ∈ isaTable, ∀ o : Nibble,
      opcodeOf (assembleLine (sourceLine d o.toNat)) = d.opcode
        ∧ operandOf (assembleLine (sourceLine d o.toNat)) = o := by
    intro d hd o
    rw [assembleLine_sourceLine_nibble hd o]
    exact ⟨opcodeOf_packByte _ _, operandOf_packByte _ _⟩
  refine ⟨fun k o => ?_, packByte_opcodeOf_operandOf, fun i => rfl, assembled, fun row hrow => ?_⟩
  · exact ⟨packByte_toNat k o, packByte_eq_shiftLeft_or k o, opcodeOf_packByte k o, operandOf_packByte k o⟩
  · exact assembled ⟨row.opcode, row.mnemonic, row.operandKind⟩ (descriptor_mem_isaTable hrow)

end Sys2Proof.Machine
end

section
/-! NOP, OUT and HLT ignore their nibble, and LDI uses it as a literal (spec/30_encoding.md R47, R51). -/

namespace Sys2Proof.Machine

/-- The advance in the form the rules write it (R74). -/
theorem nextPc_eq_ofNat (pc : Addr) : nextPc pc = BitVec.ofNat 4 ((pc.toNat + 1) % 16) := by
  rw [← nextPc_toNat, BitVec.ofNat_toNat, BitVec.setWidth_eq]

/-- The literal is the operand's own value (R47). -/
theorem literalOf_eq_ofNat (o : Nibble) : literalOf o = BitVec.ofNat 8 o.toNat :=
  (BitVec.ofNat_toNat 8 o).symm

/-- LDI's next state as updates (R85). -/
theorem exec_ldi (o : Nibble) (s : State) :
    exec (.ldi o) s = .next ((s.setA (literalOf o)).setPc (nextPc s.pc)) := rfl

/-- The meanings of NOP, OUT and HLT do not depend on the nibble (R51). -/
theorem exec_ignores_nibble (x y : Nibble) (s : State) :
    exec (.nop x) s = exec (.nop y) s ∧ exec (.out x) s = exec (.out y) s ∧ exec (.hlt x) s = exec (.hlt y) s :=
  ⟨rfl, rfl, rfl⟩

/-- Settles O8: the decoder keeps the nibble, the meanings do not read it, and the assembler packs it. -/
theorem ignoredNibbleChangesNothing : Obligations.IgnoredNibbleChangesNothing := by
  refine ⟨fun x => ?_, exec_ignores_nibble, ?_, ?_, ?_, ?_⟩
  · exact ⟨decode_packByte 0#4 x, decode_packByte 14#4 x, decode_packByte 15#4 x⟩
  · exact assembleLine_mnemonic (d := ⟨0#4, ['N', 'O', 'P'], .none⟩) (by decide)
  · exact assembleLine_mnemonic (d := ⟨14#4, ['O', 'U', 'T'], .none⟩) (by decide)
  · exact assembleLine_mnemonic (d := ⟨15#4, ['H', 'L', 'T'], .none⟩) (by decide)
  · exact assembleLine_sourceLine (d := ⟨14#4, ['O', 'U', 'T'], .none⟩) (by decide) (v := 5) (by decide)

/-- Settles O12: the packed byte decodes to LDI, which sets A and PC alone. -/
theorem ldiLoadsTheLiteral : Obligations.LdiLoadsTheLiteral := by
  refine fun o s => ⟨decode_packByte 5#4 o, ?_⟩
  rw [exec_ldi, literalOf_eq_ofNat, nextPc_eq_ofNat]
  rfl

end Sys2Proof.Machine
end

section
/-! A tick is the execution of the row the byte at the PC decodes to
(spec/40_fetch_decode_execute.md, sections 3 and 4). -/

namespace Sys2Proof.Machine

/-- In RUNNING a tick runs the row the byte at the PC decodes to (R69, R70). -/
theorem step_eq_exec_decode_memRead {s : State} (running : s.status = .running) :
    step s = exec (decode (s.memRead s.pc)) s :=
  step_eq_exec (s.isRunning_iff.mpr running)

/-- In RUNNING a tick runs the row whose encoding stands at the PC. -/
theorem step_eq_exec_of_memRead_eq_encode {s : State} {i : Instr} (running : s.status = .running)
    (placed : s.memRead s.pc = encode i) : step s = exec i s := by
  rw [step_eq_exec_decode_memRead running, placed, decode_encode]

/-- Outside RUNNING a tick changes nothing (R77; D11 for FAULTED). -/
theorem step_eq_self_of_not_running {s : State} (ended : s.status ≠ .running) : step s = .next s :=
  step_eq_self (s.isRunning_eq_false_iff.mpr ended)

/-- Settles O34: the step law of RUNNING with the decoder's round trip, and the step law of the other two states. -/
theorem stepRunsTheDecodedInstruction : Obligations.StepRunsTheDecodedInstruction :=
  ⟨fun _ running => step_eq_exec_decode_memRead running,
    fun _ _ running placed => step_eq_exec_of_memRead_eq_encode running placed,
    fun _ ended => step_eq_self_of_not_running ended⟩

end Sys2Proof.Machine
end

section
/-! LDA and STR: the loads and stores between A and memory (spec/41_data_movement.md R83, R84). -/

namespace Sys2Proof.Machine

/-- Memory reads do not look at the program counter. -/
@[simp] theorem State.memRead_setPc (s : State) (target k : Addr) : (s.setPc target).memRead k = s.memRead k := rfl

/-- LDA's next state as updates (R83). -/
theorem exec_lda (n : Addr) (s : State) :
    exec (.lda n) s = .next ((s.setA (s.memRead n)).setPc (nextPc s.pc)) := rfl

/-- STR's next state as updates (R84). -/
theorem exec_str (n : Addr) (s : State) :
    exec (.str n) s = .next ((s.memWrite n s.a).setPc (nextPc s.pc)) := rfl

/-- Settles O10: the packed byte decodes to LDA, which sets A and PC alone. -/
theorem ldaLoadsTheByte : Obligations.LdaLoadsTheByte := by
  refine fun n s => ⟨decode_packByte 1#4 n, ?_⟩
  rw [exec_lda, nextPc_eq_ofNat]
  rfl

/-- Settles O11: the packed byte decodes to STR, which writes memory and PC alone, and the read-after-write law gives
what each address then reads as. -/
theorem strStoresTheAccumulator : Obligations.StrStoresTheAccumulator := by
  refine fun n s => ⟨decode_packByte 4#4 n, _, exec_str n s, ?_, ?_, fun k other => ?_⟩
  · rw [nextPc_eq_ofNat]
    rfl
  · rw [State.memRead_setPc, State.memRead_memWrite, if_pos rfl]
  · rw [State.memRead_setPc, State.memRead_memWrite, if_neg other]

end Sys2Proof.Machine
end

section
/-! The zero flag of ADD and SUB tests the wrapped result (spec/42_arithmetic.md R88). -/

namespace Sys2Proof.Machine

theorem zeroOf_eq_true_iff (r : Byte) : zeroOf r = true ↔ r = 0#8 := decide_eq_true_iff

/-! ### Add -/

theorem aluAdd_zero_iff_result (a m : Byte) : (aluAdd a m).zero = true ↔ (aluAdd a m).result = 0#8 := by
  rw [aluAdd_zero, zeroOf_eq_true_iff]

/-- The sum of two bytes wraps to 0 from exactly two values. -/
theorem aluAdd_zero_iff_sum (a m : Byte) :
    (aluAdd a m).zero = true ↔ a.toNat + m.toNat = 0 ∨ a.toNat + m.toNat = 256 := by
  have ha := a.isLt
  have hm := m.isLt
  rw [aluAdd_zero_iff_result, aluAdd_result, BitVec.toNat_eq, BitVec.toNat_add, BitVec.toNat_ofNat]
  omega

theorem aluAdd_carry_iff (a m : Byte) : (aluAdd a m).carry = true ↔ 255 < a.toNat + m.toNat := by
  rw [aluAdd_carry, decide_eq_true_iff]

theorem aluAdd_zero_and_carry_iff (a m : Byte) :
    ((aluAdd a m).zero = true ∧ (aluAdd a m).carry = true) ↔ a.toNat + m.toNat = 256 := by
  rw [aluAdd_zero_iff_sum, aluAdd_carry_iff]
  omega

theorem aluAdd_zero_and_not_carry_iff (a m : Byte) :
    ((aluAdd a m).zero = true ∧ (aluAdd a m).carry = false) ↔ a = 0#8 ∧ m = 0#8 := by
  rw [← Bool.not_eq_true, aluAdd_zero_iff_sum, aluAdd_carry_iff, BitVec.toNat_eq, BitVec.toNat_eq, BitVec.toNat_ofNat]
  omega

/-! ### Subtract -/

theorem aluSub_zero_iff_result (a m : Byte) : (aluSub a m).zero = true ↔ (aluSub a m).result = 0#8 := by
  rw [aluSub_zero, zeroOf_eq_true_iff]

theorem aluSub_zero_iff_eq (a m : Byte) : (aluSub a m).zero = true ↔ m = a := by
  rw [aluSub_zero_iff_result, aluSub_result]
  exact sub_eq_zero.trans eq_comm

/-- Equal bytes need no borrow. -/
theorem aluSub_carry_of_zero {a m : Byte} (h : (aluSub a m).zero = true) : (aluSub a m).carry = false := by
  rw [aluSub_carry, (aluSub_zero_iff_eq a m).mp h, decide_eq_false_iff_not]
  exact Nat.lt_irrefl _

/-! ### The two instructions -/

/-- ADD's next state as updates (R90). -/
theorem exec_add (n : Addr) (s : State) :
    exec (.add n) s = .next ((s.writeAlu (aluAdd s.a (s.memRead n))).setPc (nextPc s.pc)) := rfl

/-- SUB's next state as updates (R91). -/
theorem exec_sub (n : Addr) (s : State) :
    exec (.sub n) s = .next ((s.writeAlu (aluSub s.a (s.memRead n))).setPc (nextPc s.pc)) := rfl

/-- ADD leaves in Z the test of the A it leaves. -/
theorem z_iff_of_exec_add {n : Addr} {s t : State} (h : exec (.add n) s = .next t) : t.z = true ↔ t.a = 0#8 := by
  obtain rfl := Host.Outcome.next.inj ((exec_add n s).symm.trans h)
  exact aluAdd_zero_iff_result s.a (s.memRead n)

/-- SUB leaves in Z the test of the A it leaves. -/
theorem z_iff_of_exec_sub {n : Addr} {s t : State} (h : exec (.sub n) s = .next t) : t.z = true ↔ t.a = 0#8 := by
  obtain rfl := Host.Outcome.next.inj ((exec_sub n s).symm.trans h)
  exact aluSub_zero_iff_result s.a (s.memRead n)

/-- Settles O23: the sum wraps to 0 from 0 and 256 alone, the difference from 0 alone. -/
theorem zeroFlagTestsTheWrappedResult : Obligations.ZeroFlagTestsTheWrappedResult := by
  refine ⟨fun a m => ?_, by decide, fun n s t h => h.elim z_iff_of_exec_add z_iff_of_exec_sub⟩
  exact ⟨aluAdd_zero_iff_result a m, aluSub_zero_iff_result a m, aluAdd_zero_and_carry_iff a m,
    aluAdd_zero_and_not_carry_iff a m, aluSub_zero_iff_eq a m, aluSub_carry_of_zero⟩

end Sys2Proof.Machine
end

section
/-! JMP, JC and JZ: what a jump under a condition does (spec/43_jumps.md R92 to R96). -/

namespace Sys2Proof.Machine

/-! ### What a jump under a condition asks for (R93) -/

/-- A jump never asks for a halt. -/
@[simp] theorem State.jumpIf_haltRequested (s : State) (condition : Bool) (target : Addr) :
    (s.jumpIf condition target).haltRequested = false := by
  cases condition <;> rfl

/-- A jump asks for the advance exactly when it is not taken. -/
@[simp] theorem State.jumpIf_advancePC (s : State) (condition : Bool) (target : Addr) :
    (s.jumpIf condition target).advancePC = !condition := by
  cases condition <;> rfl

/-- A jump's next state, with the advance in the form the rules write it: PC is all it writes. -/
theorem State.jumpIf_complete_eq_with (s : State) (condition : Bool) (target : Addr) :
    (s.jumpIf condition target).complete =
      { s with pc := if condition then target else BitVec.ofNat 4 ((s.pc.toNat + 1) % 16) } := by
  rw [State.jumpIf_complete, nextPc_eq_ofNat]
  rfl

/-! ### The three jumps -/

/-- JMP is the jump that is always taken (R94). -/
theorem exec_jmp (n : Addr) (s : State) : exec (.jmp n) s = .next (s.jumpIf true n).complete := rfl

/-- JC is the jump under C (R95). -/
theorem exec_jc (n : Addr) (s : State) : exec (.jc n) s = .next (s.jumpIf s.c n).complete := rfl

/-- JZ is the jump under Z (R96). -/
theorem exec_jz (n : Addr) (s : State) : exec (.jz n) s = .next (s.jumpIf s.z n).complete := rfl

/-- Settles O15: the packed byte decodes to JMP, the jump whose condition is true. -/
theorem jmpSetsThePc : Obligations.JmpSetsThePc := by
  refine fun n s => ⟨decode_packByte 6#4 n, ?_, s.jumpIf_haltRequested true n, s.jumpIf_advancePC true n⟩
  rw [exec_jmp, State.jumpIf_complete_eq_with, if_pos rfl]

/-- Settles O16: the packed byte decodes to JC, the jump whose condition is C. -/
theorem jcJumpsOnCarry : Obligations.JcJumpsOnCarry := by
  refine fun n s => ⟨decode_packByte 7#4 n, ?_, s.jumpIf_haltRequested s.c n, s.jumpIf_advancePC s.c n⟩
  rw [exec_jc, State.jumpIf_complete_eq_with]

/-- Settles O17: the packed byte decodes to JZ, the jump whose condition is Z. -/
theorem jzJumpsOnZero : Obligations.JzJumpsOnZero := by
  refine fun n s => ⟨decode_packByte 8#4 n, ?_, s.jumpIf_haltRequested s.z n, s.jumpIf_advancePC s.z n⟩
  rw [exec_jz, State.jumpIf_complete_eq_with]

end Sys2Proof.Machine
end

section
/-! NOP and OUT: the two instructions without an operand that let the machine go on (spec/44_system.md R97, R98). -/

namespace Sys2Proof.Machine

/-! ### What an instruction that proceeds asks for (R72) -/

/-- An instruction that proceeds never asks for a halt. -/
@[simp] theorem State.proceed_haltRequested (s : State) : s.proceed.haltRequested = false := rfl

/-- An instruction that proceeds always asks for the advance. -/
@[simp] theorem State.proceed_advancePC (s : State) : s.proceed.advancePC = true := rfl

/-- The next state after proceeding, with the advance in the form the rules write it: PC is all it writes. -/
theorem State.proceed_complete_eq_with (s : State) :
    s.proceed.complete = { s with pc := BitVec.ofNat 4 ((s.pc.toNat + 1) % 16) } := by
  rw [State.proceed_complete, nextPc_eq_ofNat]
  rfl

/-! ### The two instructions -/

/-- NOP proceeds from the state as it is (R97). -/
theorem exec_nop (x : Nibble) (s : State) : exec (.nop x) s = .next s.proceed.complete := rfl

/-- OUT proceeds from the state with A copied to OUT (R98). -/
theorem exec_out (x : Nibble) (s : State) : exec (.out x) s = .next (s.setOut s.a).proceed.complete := rfl

/-- Settles O9: the packed byte decodes to NOP, which proceeds with no write of its own. -/
theorem nopChangesOnlyThePc : Obligations.NopChangesOnlyThePc := by
  refine fun x s => ⟨decode_packByte 0#4 x, ?_, s.proceed_haltRequested, s.proceed_advancePC⟩
  rw [exec_nop, State.proceed_complete_eq_with]

/-- Settles O18: the packed byte decodes to OUT, which proceeds after the one write of A to OUT. -/
theorem outCopiesTheAccumulator : Obligations.OutCopiesTheAccumulator := by
  refine fun x s =>
    ⟨decode_packByte 14#4 x, ?_, (s.setOut s.a).proceed_haltRequested, (s.setOut s.a).proceed_advancePC⟩
  rw [exec_out, State.proceed_complete_eq_with]
  rfl

end Sys2Proof.Machine
end

section
/-! The next state of every row, as one function, and what it writes, item by item: executing a row and a tick are
total, and every later proof about them speaks of these two functions (spec/40_fetch_decode_execute.md R70 to R80). -/

namespace Sys2Proof.Machine

/-! ### The next state of a row and of a tick -/

/-- The state a row leaves: what it writes, and then the advance and the halt check; for a reserved row the exception
taken with the row's own byte. `exec_eq_next` ties it to `exec`. -/
def execNext (i : Instr) (s : State) : State :=
  match i with
  | .nop _ => s.setPc (nextPc s.pc)
  | .lda n => (s.setA (s.memRead n)).setPc (nextPc s.pc)
  | .add n => (s.writeAlu (aluAdd s.a (s.memRead n))).setPc (nextPc s.pc)
  | .sub n => (s.writeAlu (aluSub s.a (s.memRead n))).setPc (nextPc s.pc)
  | .str n => (s.memWrite n s.a).setPc (nextPc s.pc)
  | .ldi o => (s.setA (literalOf o)).setPc (nextPc s.pc)
  | .jmp n => s.setPc n
  | .jc n => s.setPc (if s.c then n else nextPc s.pc)
  | .jz n => s.setPc (if s.z then n else nextPc s.pc)
  | .out _ => (s.setOut s.a).setPc (nextPc s.pc)
  | .hlt _ => (s.setPc (nextPc s.pc)).setStatus .halted
  | reserved => s.raiseUndefinedOpcode s.pc (encode reserved)

/-- Executing a row answers the next state, never a fault or a refusal of the model (R78). -/
theorem exec_eq_next (i : Instr) (s : State) : exec i s = .next (execNext i s) := by
  cases i
  case jc n => exact congrArg Host.Outcome.next (jcEffect_complete n s)
  case jz n => exact congrArg Host.Outcome.next (jzEffect_complete n s)
  all_goals rfl

theorem execNext_of_exec {i : Instr} {s t : State} (h : exec i s = .next t) : t = execNext i s :=
  Host.Outcome.next.inj (h.symm.trans (exec_eq_next i s))

/-- A reserved row takes the exception with its own byte (R101; log entry 8). -/
theorem execNext_of_reserved {i : Instr} (reserved : i.wf = false) (s : State) :
    execNext i s = s.raiseUndefinedOpcode s.pc (encode i) := by
  cases i with
  | reserved9 | reserved10 | reserved11 | reserved12 | reserved13 => rfl
  | _ => cases reserved

/-- The state a tick leaves: that of the row fetched in RUNNING, the same state else (R77, R80). -/
def stepNext (s : State) : State := if s.status = .running then execNext (decode s.fetch) s else s

theorem stepNext_of_running {s : State} (running : s.status = .running) :
    stepNext s = execNext (decode s.fetch) s := if_pos running

theorem stepNext_of_ended {s : State} (ended : s.status ≠ .running) : stepNext s = s := if_neg ended

/-- A tick answers the next state, from every state (R78). -/
theorem step_eq_next (s : State) : step s = .next (stepNext s) := by
  by_cases running : s.status = .running
  · rw [stepNext_of_running running, ← exec_eq_next]
    exact step_eq_exec_decode_memRead running
  · rw [stepNext_of_ended running, step_eq_self_of_not_running running]

theorem stepNext_of_step {s t : State} (h : step s = .next t) : t = stepNext s :=
  Host.Outcome.next.inj (h.symm.trans (step_eq_next s))

/-! ### What a row leaves in each item of the state -/

/-- Whether a row sets PC to its operand: JMP, JC under C and JZ under Z (R93). -/
def State.takesJump (s : State) (i : Instr) : Bool :=
  match i with
  | .jmp _ => true
  | .jc _ => s.c
  | .jz _ => s.z
  | _ => false

theorem execNext_a_eq_or (i : Instr) (s : State) :
    (execNext i s).a = s.a ∨ ∃ n, i = .lda n ∨ i = .ldi n ∨ i = .add n ∨ i = .sub n := by
  cases i with
  | lda n | ldi n | add n | sub n => exact .inr ⟨n, by simp⟩
  | _ => exact .inl rfl

theorem execNext_flags_eq_or (i : Instr) (s : State) :
    ((execNext i s).z = s.z ∧ (execNext i s).c = s.c) ∨ ∃ n, i = .add n ∨ i = .sub n := by
  cases i with
  | add n | sub n => exact .inr ⟨n, by simp⟩
  | _ => exact .inl ⟨rfl, rfl⟩

theorem execNext_out_eq_or (i : Instr) (s : State) : (execNext i s).out = s.out ∨ ∃ x, i = .out x := by
  cases i with
  | out x => exact .inr ⟨x, rfl⟩
  | _ => exact .inl rfl

theorem execNext_mem_eq_or (i : Instr) (s : State) :
    (execNext i s).mem = s.mem ∨ ∃ n, i = .str n ∧ (execNext i s).mem = Memory.write s.mem n s.a := by
  cases i with
  | str n => exact .inr ⟨n, rfl, rfl⟩
  | _ => exact .inl rfl

/-- STATUS is FAULTED after a reserved row, HALTED after HLT, and else as before. -/
theorem execNext_status (i : Instr) (s : State) :
    (execNext i s).status = if i.wf then (if i.opcode = 15#4 then .halted else s.status) else .faulted := by
  cases i <;> rfl

/-- Only the exception writes the fault record. -/
theorem execNext_faultRecord_of_wf {i : Instr} (wf : i.wf = true) (s : State) :
    (execNext i s).faultAddr = s.faultAddr ∧ (execNext i s).faultByte = s.faultByte := by
  cases i with
  | reserved9 | reserved10 | reserved11 | reserved12 | reserved13 => cases wf
  | _ => exact ⟨rfl, rfl⟩

/-- PC stays under a reserved row, is the operand under a taken jump, and else the next address. -/
theorem execNext_pc (i : Instr) (s : State) :
    (execNext i s).pc = if i.wf then (if s.takesJump i then i.operand else nextPc s.pc) else s.pc := by
  cases i <;> rfl

end Sys2Proof.Machine
end

section
/-! The ALU on numbers, and with it ADD and SUB; HLT, the reserved rows and the pairs every instruction asks for
(spec/42_arithmetic.md R86 to R91, spec/44_system.md R99, spec/40_fetch_decode_execute.md R73). -/

namespace Sys2Proof.Machine

/-! ### The ALU -/

/-- With the carry as bit 8 the result is the true sum (R87). -/
theorem aluAdd_exact (a m : Byte) :
    (aluAdd a m).result.toNat + 256 * (aluAdd a m).carry.toNat = a.toNat + m.toNat := by
  rw [aluAdd_result, aluAdd_carry, BitVec.toNat_add]
  by_cases overflow : 255 < a.toNat + m.toNat
  · rw [decide_eq_true overflow, Bool.toNat_true]
    omega
  · rw [decide_eq_false overflow, Bool.toNat_false]
    omega

/-- With the borrow taken away the result is the true difference (R87). -/
theorem aluSub_exact (a m : Byte) :
    ((aluSub a m).result.toNat : Int) - 256 * ((aluSub a m).carry.toNat : Int) = (a.toNat : Int) - m.toNat := by
  rw [aluSub_result, aluSub_carry, BitVec.toNat_sub]
  by_cases borrow : a.toNat < m.toNat
  · rw [decide_eq_true borrow, Bool.toNat_true]
    omega
  · rw [decide_eq_false borrow, Bool.toNat_false]
    omega

/-- Settles O22: the two laws of the ALU, with and without a carry or borrow. -/
theorem aluResultsAreExact : Obligations.AluResultsAreExact :=
  fun a m => ⟨aluAdd_exact a m, aluSub_exact a m⟩

/-- A sum narrowed to a byte is 0 exactly when it is 0 modulo 256. -/
theorem zeroOf_ofNat (n : Nat) : zeroOf (BitVec.ofNat 8 n) = decide (n % 256 = 0) := by
  rw [zeroOf, decide_eq_decide, BitVec.toNat_eq, BitVec.toNat_ofNat, BitVec.toNat_ofNat]

/-- A difference narrowed to a byte is 0 exactly when it is 0 modulo 256. -/
theorem zeroOf_ofInt (d : Int) : zeroOf (BitVec.ofInt 8 d) = decide (d % 256 = 0) := by
  rw [zeroOf, decide_eq_decide, BitVec.toNat_eq, BitVec.toNat_ofInt, BitVec.toNat_ofNat]
  omega

/-- ADD's output in the form the rules write it (R86, R87). -/
theorem aluAdd_eq_mod (a m : Byte) : aluAdd a m =
    ⟨BitVec.ofNat 8 ((a.toNat + m.toNat) % 256), decide (a.toNat + m.toNat > 255),
      decide ((a.toNat + m.toNat) % 256 = 0)⟩ := by
  have narrowed : BitVec.ofNat 8 ((a.toNat + m.toNat) % 256) = BitVec.ofNat 8 (a.toNat + m.toNat) :=
    BitVec.eq_of_toNat_eq (by simp only [BitVec.toNat_ofNat]; omega)
  rw [narrowed, ← zeroOf_ofNat]
  rfl

/-- SUB's output in the form the rules write it (R86, R87). -/
theorem aluSub_eq_mod (a m : Byte) : aluSub a m =
    ⟨BitVec.ofInt 8 (((a.toNat : Int) - m.toNat) % 256), decide (m.toNat > a.toNat),
      decide (((a.toNat : Int) - m.toNat) % 256 = 0)⟩ := by
  have narrowed : BitVec.ofInt 8 (((a.toNat : Int) - m.toNat) % 256) = BitVec.ofInt 8 ((a.toNat : Int) - m.toNat) :=
    BitVec.eq_of_toNat_eq (by simp only [BitVec.toNat_ofInt]; omega)
  rw [narrowed, ← zeroOf_ofInt]
  rfl

/-! ### The instructions -/

/-- Settles O13: the packed byte decodes to ADD, which writes the sum and its flags. -/
theorem addWritesSumAndFlags : Obligations.AddWritesSumAndFlags := by
  refine fun n s => ⟨decode_packByte 2#4 n, ?_⟩
  rw [exec_add, aluAdd_eq_mod, nextPc_eq_ofNat]
  rfl

/-- Settles O14: the packed byte decodes to SUB, which writes the difference and its flags. -/
theorem subWritesDifferenceAndFlags : Obligations.SubWritesDifferenceAndFlags := by
  refine fun n s => ⟨decode_packByte 3#4 n, ?_⟩
  rw [exec_sub, aluSub_eq_mod, nextPc_eq_ofNat]
  rfl

/-- Settles O24: the ALU reads A and memory, and both flags are overwritten. -/
theorem flagsAreNeverAluInputs : Obligations.FlagsAreNeverAluInputs := by
  intro n s z c
  rw [exec_add, exec_add, exec_sub, exec_sub]
  exact ⟨rfl, rfl⟩

/-- HLT's next state as updates (R99). -/
theorem exec_hlt (x : Nibble) (s : State) :
    exec (.hlt x) s = .next ((s.setPc (nextPc s.pc)).setStatus .halted) := rfl

/-- Settles O19: the packed byte decodes to HLT, which writes PC and STATUS alone. -/
theorem hltHalts : Obligations.HltHalts := by
  refine fun x s => ⟨decode_packByte 15#4 x, ?_⟩
  rw [exec_hlt, nextPc_eq_ofNat]
  rfl

/-- A reserved row's execution is the exception with its own byte (R101; log entry 8). -/
theorem exec_of_reserved {i : Instr} (reserved : i.wf = false) (s : State) :
    exec i s = .next (s.raiseUndefinedOpcode s.pc (encode i)) := by
  rw [exec_eq_next, execNext_of_reserved reserved]

/-- Settles O20: each of the five rows is not well formed, so it takes the exception. -/
theorem reservedRowsRaiseUndefinedOpcode : Obligations.ReservedRowsRaiseUndefinedOpcode :=
  fun _ s => ⟨exec_of_reserved rfl s, exec_of_reserved rfl s, exec_of_reserved rfl s, exec_of_reserved rfl s,
    exec_of_reserved rfl s⟩

/-- Settles O21: seven instructions proceed, three are jumps under a condition, and HLT requests the halt. -/
theorem outcomePairs : Obligations.OutcomePairs := by
  intro x s
  refine ⟨?_, ⟨s.jumpIf_haltRequested true x, s.jumpIf_advancePC true x⟩,
    ⟨s.jumpIf_haltRequested s.c x, s.jumpIf_advancePC s.c x⟩,
    ⟨s.jumpIf_haltRequested s.z x, s.jumpIf_advancePC s.z x⟩, rfl, rfl⟩
  have proceeds : ∀ t : State, t.proceed.haltRequested = false ∧ t.proceed.advancePC = true :=
    fun t => ⟨t.proceed_haltRequested, t.proceed_advancePC⟩
  simp only [List.forall_mem_cons]
  exact ⟨proceeds _, proceeds _, proceeds _, proceeds _, proceeds _, proceeds _, proceeds _, List.forall_mem_nil _⟩

/-- What each address reads as after STR. -/
theorem memRead_execNext_str (n k : Addr) (s : State) :
    (execNext (.str n) s).memRead k = if k = n then s.a else s.memRead k :=
  s.memRead_memWrite n k s.a

/-- Settles O29: STR's next state is the write and the advance, which reads as the read-after-write law says. -/
theorem strFrame : Obligations.StrFrame := by
  intro n s t h
  obtain rfl := execNext_of_exec h
  exact ⟨(memRead_execNext_str n _ s).trans (if_pos rfl),
    fun k other => (memRead_execNext_str n k s).trans (if_neg other), rfl, rfl, rfl, rfl, rfl, rfl, rfl⟩

end Sys2Proof.Machine
end

section
/-! Canonical memory is determined by its bytes, and each item of the state has its writers and its readers
(spec/10_state.md R11 to R19, spec/20_memory.md R29, R34, R39). -/

namespace Sys2Proof.Machine

/-! ### Canonical memory -/

/-- The conditions of the canonical form on the first entry and on the rest. -/
theorem Memory.wfFrom_cons {low k : Nat} {v : Byte} {m : Memory} :
    Memory.wfFrom low ((k, v) :: m) = true ↔
      low ≤ k ∧ k < Config.memSize ∧ v ≠ Config.unlistedByte ∧ Memory.wfFrom (k + 1) m = true := by
  simp only [Memory.wfFrom, Bool.and_eq_true, decide_eq_true_eq, and_assoc]

theorem Memory.lookup_cons_self (k : Nat) (v : Byte) (m : Memory) : Memory.lookup ((k, v) :: m) k = v :=
  if_pos rfl

theorem Memory.lookup_cons_of_ne {k n : Nat} (other : k ≠ n) (v : Byte) (m : Memory) :
    Memory.lookup ((k, v) :: m) n = Memory.lookup m n :=
  if_neg other

/-- Canonical memory from `low` upward lists nothing below `low`. -/
theorem Memory.lookup_eq_unlisted_of_lt {low n : Nat} {m : Memory} (hm : Memory.wfFrom low m = true) (below : n < low) :
    Memory.lookup m n = Config.unlistedByte := by
  induction m generalizing low with
  | nil => rfl
  | cons cell rest ih =>
    obtain ⟨hlow, -, -, hrest⟩ := Memory.wfFrom_cons.mp hm
    rw [Memory.lookup_cons_of_ne (by omega)]
    exact ih hrest (by omega)

/-- The first entry of a canonical memory is not below that of another which reads alike. -/
theorem Memory.head_le_of_lookup_eq {low low' k k' : Nat} {v v' : Byte} {m m' : Memory}
    (hm : Memory.wfFrom low ((k, v) :: m) = true) (hm' : Memory.wfFrom low' ((k', v') :: m') = true)
    (alike : ∀ n < Config.memSize, Memory.lookup ((k, v) :: m) n = Memory.lookup ((k', v') :: m') n) : k' ≤ k := by
  obtain ⟨-, hk, hv, -⟩ := Memory.wfFrom_cons.mp hm
  obtain ⟨-, hk', hv', hrest'⟩ := Memory.wfFrom_cons.mp hm'
  by_contra below
  have fromHead : Memory.wfFrom k' ((k', v') :: m') = true := Memory.wfFrom_cons.mpr ⟨le_rfl, hk', hv', hrest'⟩
  have listed := alike k hk
  rw [Memory.lookup_cons_self, Memory.lookup_eq_unlisted_of_lt fromHead (by omega)] at listed
  exact hv listed

/-- A canonical memory with an entry does not read as one without. -/
theorem Memory.not_lookup_eq_unlisted_of_cons {low : Nat} {cell : Host.Cell} {m : Memory}
    (hm : Memory.wfFrom low (cell :: m) = true) :
    ¬∀ n < Config.memSize, Memory.lookup (cell :: m) n = Config.unlistedByte := by
  obtain ⟨k, v⟩ := cell
  obtain ⟨-, hk, hv, -⟩ := Memory.wfFrom_cons.mp hm
  exact fun unlisted => hv ((Memory.lookup_cons_self k v m).symm.trans (unlisted k hk))

/-- Canonical memories that read alike are equal lists. -/
theorem Memory.eq_of_lookup_eq {low : Nat} {m m' : Memory} (hm : Memory.wfFrom low m = true)
    (hm' : Memory.wfFrom low m' = true)
    (alike : ∀ n < Config.memSize, Memory.lookup m n = Memory.lookup m' n) : m = m' := by
  induction m generalizing low m' with
  | nil =>
    cases m' with
    | nil => rfl
    | cons cell' rest' => exact absurd (fun n hn => (alike n hn).symm) (Memory.not_lookup_eq_unlisted_of_cons hm')
  | cons cell rest ih =>
    cases m' with
    | nil => exact absurd alike (Memory.not_lookup_eq_unlisted_of_cons hm)
    | cons cell' rest' =>
      obtain ⟨k, v⟩ := cell
      obtain ⟨k', v'⟩ := cell'
      obtain rfl : k = k' := le_antisymm (Memory.head_le_of_lookup_eq hm' hm fun n hn => (alike n hn).symm)
        (Memory.head_le_of_lookup_eq hm hm' alike)
      obtain ⟨-, hk, -, hrest⟩ := Memory.wfFrom_cons.mp hm
      obtain ⟨-, -, -, hrest'⟩ := Memory.wfFrom_cons.mp hm'
      have sameValue : v = v' := by simpa only [Memory.lookup_cons_self] using alike k hk
      have restAlike : ∀ n < Config.memSize, Memory.lookup rest n = Memory.lookup rest' n := by
        intro n hn
        by_cases atHead : k = n
        · rw [Memory.lookup_eq_unlisted_of_lt hrest (by omega), Memory.lookup_eq_unlisted_of_lt hrest' (by omega)]
        · simpa only [Memory.lookup_cons_of_ne atHead] using alike n hn
      rw [sameValue, ih hrest hrest' restAlike]

/-- Settles O26: the addresses are the numbers below sixteen, and canonical lists that read alike there are equal. -/
theorem canonicalMemoryIsItsBytes : Obligations.CanonicalMemoryIsItsBytes := by
  intro m m' hm hm' alike
  refine Memory.eq_of_lookup_eq hm hm' fun n hn => ?_
  have sameByte := alike (BitVec.ofNat 4 n)
  rwa [Memory.read, Memory.read, BitVec.toNat_ofNat, Nat.mod_eq_of_lt (show n < 2 ^ 4 from hn)] at sameByte

/-! ### The writers of each item -/

/-- Settles O28: the writer of memory is STR. -/
theorem onlyStrChangesMemory : Obligations.OnlyStrChangesMemory := by
  intro i s t notStr h
  obtain rfl := execNext_of_exec h
  have kept : (execNext i s).mem = s.mem :=
    (execNext_mem_eq_or i s).resolve_right fun ⟨n, str, _⟩ => notStr n str
  exact ⟨kept, fun k => congrArg (Memory.read · k) kept⟩

theorem execNext_status_eq_or (i : Instr) (s : State) :
    (execNext i s).status = s.status ∨ (∃ x, i = .hlt x) ∨ i.wf = false := by
  cases i with
  | hlt x => exact .inr (.inl ⟨x, rfl⟩)
  | reserved9 | reserved10 | reserved11 | reserved12 | reserved13 => exact .inr (.inr rfl)
  | _ => exact .inl rfl

theorem execNext_pc_of_reserved {i : Instr} (reserved : i.wf = false) (s : State) : (execNext i s).pc = s.pc := by
  rw [execNext_of_reserved reserved, State.raiseUndefinedOpcode_pc]

/-- Settles O30: one lemma for each item of the state, about the next state of a row. -/
theorem eachRegisterHasItsWriters : Obligations.EachRegisterHasItsWriters := by
  intro i s t h
  obtain rfl := execNext_of_exec h
  have mem : (execNext i s).mem = s.mem ∨ ∃ n, i = .str n :=
    (execNext_mem_eq_or i s).imp_right fun ⟨n, str, _⟩ => ⟨n, str⟩
  refine ⟨execNext_a_eq_or i s, execNext_out_eq_or i s, execNext_flags_eq_or i s, mem, execNext_status_eq_or i s, ?_⟩
  cases wf : i.wf with
  | false => exact ⟨.inr rfl, .inl (execNext_pc_of_reserved wf s)⟩
  | true => exact ⟨.inl (execNext_faultRecord_of_wf wf s), .inr rfl⟩

/-! ### Where the PC goes -/

/-- The next address wraps from 15 to 0 (R74; D1). -/
theorem nextPc_toNat_eq_ite (pc : Addr) : (nextPc pc).toNat = if pc.toNat = 15 then 0 else pc.toNat + 1 := by
  have bound := pc.isLt
  rw [nextPc_toNat]
  split <;> omega

theorem execNext_pc_of_takesJump {i : Instr} {s : State} (wf : i.wf = true) (taken : s.takesJump i = true) :
    (execNext i s).pc = i.operand := by
  rw [execNext_pc, if_pos wf, if_pos taken]

theorem execNext_pc_of_not_takesJump {i : Instr} {s : State} (wf : i.wf = true) (notTaken : ¬s.takesJump i = true) :
    (execNext i s).pc = nextPc s.pc := by
  rw [execNext_pc, if_pos wf, if_neg notTaken]

/-- A taken jump is JMP, JC under C or JZ under Z (R93). -/
theorem State.takesJump_iff (s : State) (i : Instr) : s.takesJump i = true ↔
    ∃ n, i = .jmp n ∨ (i = .jc n ∧ s.c = true) ∨ (i = .jz n ∧ s.z = true) := by
  cases i <;> simp [State.takesJump]

/-- Settles O31: PC under a reserved row, under a taken jump and under every other. -/
theorem pcOfTheNextState : Obligations.PcOfTheNextState := by
  intro i s t h
  obtain rfl := execNext_of_exec h
  refine ⟨fun reserved => execNext_pc_of_reserved reserved s, fun n jump => ?_, fun wf notJmp notJc notJz => ?_⟩
  · have taken := (s.takesJump_iff i).mpr ⟨n, jump⟩
    rcases jump with rfl | ⟨rfl, -⟩ | ⟨rfl, -⟩ <;> exact execNext_pc_of_takesJump rfl taken
  · rw [execNext_pc_of_not_takesJump wf, nextPc_toNat_eq_ite]
    intro taken
    obtain ⟨n, jmp | ⟨jc, c⟩ | ⟨jz, z⟩⟩ := (s.takesJump_iff i).mp taken
    · exact notJmp n jmp
    · exact notJc c n jc
    · exact notJz z n jz

/-! ### What no row reads -/

/-- A row passes OUT through, or overwrites it with a value that is not OUT's own. -/
theorem execNext_setOut (i : Instr) (s : State) (v : Byte) :
    (execNext i (s.setOut v) = (execNext i s).setOut v ∧ (execNext i s).out = s.out)
      ∨ execNext i (s.setOut v) = execNext i s := by
  cases i with
  | out x => exact .inr rfl
  | _ => exact .inl ⟨rfl, rfl⟩

/-- A tick passes OUT through, or overwrites it with a value that is not OUT's own. -/
theorem stepNext_setOut (s : State) (v : Byte) :
    (stepNext (s.setOut v) = (stepNext s).setOut v ∧ (stepNext s).out = s.out)
      ∨ stepNext (s.setOut v) = stepNext s := by
  by_cases running : s.status = .running
  · rw [stepNext_of_running running, stepNext_of_running (s := s.setOut v) running]
    exact execNext_setOut (decode s.fetch) s v
  · rw [stepNext_of_ended running, stepNext_of_ended (s := s.setOut v) running]
    exact .inl ⟨rfl, rfl⟩

/-- Settles O32: the tick with another OUT passes that OUT through, or leaves the very same state. -/
theorem outIsNeverRead : Obligations.OutIsNeverRead := by
  intro s v
  refine ⟨stepNext s, stepNext (s.setOut v), step_eq_next s, step_eq_next (s.setOut v), ?_⟩
  rcases stepNext_setOut s v with ⟨through, kept⟩ | overwritten
  · rw [through]
    exact ⟨rfl, .inl ⟨rfl, kept⟩⟩
  · rw [overwritten]
    exact ⟨rfl, .inr rfl⟩

/-- The state with another fault record. -/
def State.setFaultRecord (s : State) (n : Addr) (v : Byte) : State := { s with faultAddr := n, faultByte := v }

/-- A row that is no reserved one keeps whatever fault record there is. -/
theorem execNext_setFaultRecord_of_wf {i : Instr} (wf : i.wf = true) (s : State) (n : Addr) (v : Byte) :
    execNext i (s.setFaultRecord n v) = (execNext i s).setFaultRecord n v := by
  cases i with
  | reserved9 | reserved10 | reserved11 | reserved12 | reserved13 => cases wf
  | _ => rfl

/-- A reserved row overwrites whatever fault record there is. -/
theorem execNext_setFaultRecord_of_reserved {i : Instr} (reserved : i.wf = false) (s : State) (n : Addr) (v : Byte) :
    execNext i (s.setFaultRecord n v) = execNext i s := by
  rw [execNext_of_reserved reserved, execNext_of_reserved reserved]
  rfl

theorem execNext_status_eq_faulted_iff {s : State} (running : s.status = .running) (i : Instr) :
    (execNext i s).status = .faulted ↔ i.wf = false := by
  rw [execNext_status, running]
  cases i.wf with
  | false => exact ⟨fun _ => rfl, fun _ => rfl⟩
  | true =>
    rw [if_pos rfl]
    split <;> simp

/-- Settles O33: a step of a running machine overwrites the fault record, or passes it through. -/
theorem faultRecordIsNeverRead : Obligations.FaultRecordIsNeverRead := by
  intro s n v running
  have faults := execNext_status_eq_faulted_iff running (decode s.fetch)
  have runs := stepNext_of_running running
  have runs' : stepNext (s.setFaultRecord n v) = execNext (decode s.fetch) (s.setFaultRecord n v) :=
    stepNext_of_running (s := s.setFaultRecord n v) running
  refine ⟨stepNext s, stepNext (s.setFaultRecord n v), step_eq_next s, step_eq_next (s.setFaultRecord n v), ?_⟩
  rw [runs, runs', ne_eq, faults]
  cases wf : (decode s.fetch).wf with
  | false =>
    rw [execNext_setFaultRecord_of_reserved wf]
    exact ⟨rfl, fun _ => rfl, fun keeps => absurd rfl keeps⟩
  | true =>
    rw [execNext_setFaultRecord_of_wf wf]
    exact ⟨rfl, nofun, fun _ => ⟨rfl, rfl⟩⟩

/-! ### A store and the fetches after it -/

/-- Settles O27: the step is STR's, and a fetch is a read of the memory it leaves. -/
theorem storeIsSeenByTheNextFetch : Obligations.StoreIsSeenByTheNextFetch := by
  intro s n running fetched
  have decoded : decode s.fetch = .str n := fetched ▸ decode_packByte 4#4 n
  have answers := step_eq_next s
  rw [stepNext_of_running running, decoded] at answers
  refine ⟨execNext (.str n) s, answers, running, memRead_execNext_str n _ s, fun u sameMem atStore => ?_⟩
  calc u.fetch = (execNext (.str n) s).memRead n := by rw [State.fetch, State.memRead, sameMem, atStore]; rfl
    _ = s.a := (memRead_execNext_str n n s).trans (if_pos rfl)

end Sys2Proof.Machine
end

section
/-! The invariants of the state hold after reset and after every tick, so along every sequence of events
(spec/10_state.md R23, spec/70_reset_and_hazards.md R117 to R128). -/

namespace Sys2Proof.Machine

/-! ### Every tick keeps the invariants -/

/-- A row leaves canonical memory canonical. -/
theorem execNext_mem_wf {s : State} (canonical : Memory.wf s.mem = true) (i : Instr) :
    Memory.wf (execNext i s).mem = true := by
  rcases execNext_mem_eq_or i s with kept | ⟨n, -, written⟩
  · rwa [kept]
  · rw [written]
    exact Memory.wf_write canonical n s.a

/-- The exception leaves the invariants, its record being the byte fetched and its address (R101). -/
theorem State.Inv.after_exception {s : State} (inv : s.Inv) (reserved : isReservedByte s.fetch = true) :
    (s.raiseUndefinedOpcode s.pc s.fetch).Inv where
  memWf := inv.memWf
  noFaultRecord notFaulted := absurd rfl notFaulted
  faultRecord _ := ⟨rfl, rfl, reserved⟩

/-- A row that is no reserved one leaves a running machine's invariants, with no fault record. -/
theorem State.Inv.after_row {s : State} (inv : s.Inv) (running : s.status = .running) {i : Instr}
    (wf : i.wf = true) : (execNext i s).Inv where
  memWf := execNext_mem_wf inv.memWf i
  noFaultRecord _ := by
    obtain ⟨addrKept, byteKept⟩ := execNext_faultRecord_of_wf wf s
    rw [addrKept, byteKept]
    exact inv.noFaultRecord (by simp [running])
  faultRecord faulted := by
    have reserved := (execNext_status_eq_faulted_iff running i).mp faulted
    exact absurd (wf.symm.trans reserved) (by decide)

/-- Fetching a reserved byte takes the exception with that byte (R101). -/
theorem stepNext_of_reserved {s : State} (running : s.status = .running) (reserved : isReservedByte s.fetch = true) :
    stepNext s = s.raiseUndefinedOpcode s.pc s.fetch := by
  have notWf : (decode s.fetch).wf = false := by rw [decode_wf, reserved]; rfl
  rw [stepNext_of_running running, execNext_of_reserved notWf, encode_decode]

/-- A tick changes nothing, takes the exception, or runs a row that is no reserved one; each keeps the invariants. -/
theorem State.Inv.after_tick {s : State} (inv : s.Inv) : (stepNext s).Inv := by
  by_cases running : s.status = .running
  · cases reserved : isReservedByte s.fetch with
    | true =>
      rw [stepNext_of_reserved running reserved]
      exact inv.after_exception reserved
    | false =>
      rw [stepNext_of_running running]
      exact inv.after_row running (by rw [decode_wf, reserved]; rfl)
  · rwa [stepNext_of_ended running]

/-- Settles O44: the state a step answers is that of the tick, which keeps the invariants. -/
theorem stepKeepsTheInvariants : Obligations.StepKeepsTheInvariants := by
  intro s t inv h
  rw [stepNext_of_step h]
  exact inv.after_tick

/-! ### Reset -/

theorem State.resetWith_inv (image : Image) : (State.resetWith image).Inv where
  memWf := Memory.wf_ofImage image
  noFaultRecord _ := ⟨rfl, rfl⟩
  faultRecord := nofun

/-- Settles O45: memory filled from an image is canonical, and STATUS is RUNNING with no fault record. -/
theorem resetHasTheInvariants : Obligations.ResetHasTheInvariants :=
  ⟨⟨State.reset_mem_wf, fun _ => ⟨rfl, rfl⟩, nofun⟩, State.resetWith_inv⟩

/-- Settles O47: reset writes every field, and memory filled from the image reads as the image. -/
theorem resetLeavesTheResetState : Obligations.ResetLeavesTheResetState :=
  fun _ g => ⟨State.resetWith g, rfl, rfl, rfl, Memory.read_ofImage g, rfl, rfl, rfl, rfl, rfl, rfl⟩

/-- Both memories are canonical and read 0 everywhere, so they are equal. -/
theorem Memory.ofImage_imageOfFile_nil : Memory.ofImage (imageOfFile []) = [] := by
  refine canonicalMemoryIsItsBytes _ _ (Memory.wf_ofImage _) State.reset_mem_wf fun k => ?_
  rw [Memory.read_ofImage, imageByte_imageOfFile]
  rfl

/-- Settles O48: the empty file's image fills memory with nothing. -/
theorem resetIsTheEmptyFile : Obligations.ResetIsTheEmptyFile := by
  refine ⟨?_, fun k => rfl⟩
  rw [State.load_eq, State.resetWith, Memory.ofImage_imageOfFile_nil]
  rfl

/-- What each address reads as after the load of a file (R120). -/
theorem State.memRead_load (file : List Byte) (k : Addr) :
    (State.load file).memRead k = if h : k.toNat < file.length then file[k.toNat] else 0#8 := by
  rw [State.load_eq, State.memRead, State.resetWith_mem, Memory.read_ofImage, imageByte_imageOfFile]
  split
  next inside => exact List.getD_eq_getElem file 0#8 inside
  next beyond => exact List.getD_eq_default file 0#8 (Nat.le_of_not_lt beyond)

/-- Settles O49: the loader's image holds the file's bytes by index, and reset fills memory with the image. -/
theorem loaderTruncatesAndPads : Obligations.LoaderTruncatesAndPads :=
  fun file k => ⟨State.memRead_load file k, rfl⟩

/-! ### Every sequence of events -/

/-- An event is answered by a next state that keeps the invariants. -/
theorem State.Inv.after_event {s : State} (inv : s.Inv) (e : Event) : ∃ t, s.react e = .next t ∧ t.Inv := by
  cases e with
  | tick => exact ⟨stepNext s, step_eq_next s, inv.after_tick⟩
  | reset image => exact ⟨State.resetWith image, rfl, State.resetWith_inv image⟩

/-- The first event of a sequence, when it is answered by a next state. -/
theorem State.reactAll_cons {s t : State} {e : Event} (h : s.react e = .next t) (rest : List Event) :
    s.reactAll (e :: rest) = t.reactAll rest := by
  rw [State.reactAll, h]

/-- Settles O46: by induction on the events, each answered by a next state that keeps the invariants. -/
theorem everyEventSequenceKeepsTheInvariants : Obligations.EveryEventSequenceKeepsTheInvariants := by
  intro events
  induction events with
  | nil => exact fun s inv => ⟨s, rfl, inv⟩
  | cons e rest ih =>
    intro s inv
    obtain ⟨t, reacts, kept⟩ := inv.after_event e
    rw [State.reactAll_cons reacts]
    exact ih t kept

end Sys2Proof.Machine
end

section
/-! A tick: which run state it goes to, which states it never leaves, and that the listing of R80 and the datapath of
R56 describe the same tick (spec/40_fetch_decode_execute.md, spec/30_encoding.md section 5). -/

namespace Sys2Proof.Machine

/-! ### Every tick answers a next state -/

/-- Settles O36: the next state is the one `stepNext` computes. -/
theorem stepAlwaysAnswersANextState : Obligations.StepAlwaysAnswersANextState :=
  fun s => ⟨stepNext s, step_eq_next s⟩

/-- Placing an instruction's byte writes that byte at PC and sets STATUS to RUNNING (log entry 15). -/
theorem State.withFetchWord_encode (s : State) (i : Instr) :
    s.withFetchWord 8 (encode i).toNat = (s.memWrite s.pc (encode i)).setStatus .running := by
  rw [State.withFetchWord, Nat.mod_eq_of_lt (encode i).isLt, BitVec.ofNat_toNat, BitVec.setWidth_eq]

/-- Settles O35: the byte at PC reads as the byte placed, and every other as before. -/
theorem placedWordIsTheOneThatRuns : Obligations.PlacedWordIsTheOneThatRuns := by
  intro s i
  rw [State.withFetchWord_encode]
  have placed : ((s.memWrite s.pc (encode i)).setStatus .running).memRead s.pc = encode i :=
    (s.memRead_memWrite s.pc s.pc (encode i)).trans (if_pos rfl)
  exact ⟨_, rfl, step_eq_exec_of_memRead_eq_encode rfl placed,
    fun k other => (s.memRead_memWrite s.pc k (encode i)).trans (if_neg other), rfl⟩

/-! ### The run state -/

/-- Settles O37: the byte decodes to a reserved row, whose encoding is the byte. -/
theorem undefinedOpcodeIsTaken : Obligations.UndefinedOpcodeIsTaken := by
  intro s running low high
  have reserved : isReservedByte s.fetch = true := (isReservedByte_iff _).mpr ⟨low, high⟩
  rw [step_eq_next, stepNext_of_reserved running reserved]
  rfl

/-- The bytes of HLT are 0xF0 and above (R49). -/
theorem opcodeOf_eq_hlt_iff (b : Byte) : opcodeOf b = 15#4 ↔ 240 ≤ b.toNat := by
  have bound := b.isLt
  rw [BitVec.toNat_eq, opcodeOf_toNat, BitVec.toNat_ofNat]
  omega

/-- Where a tick of a running machine takes STATUS, by the byte fetched. -/
theorem stepNext_status {s : State} (running : s.status = .running) : (stepNext s).status =
    if isReservedByte s.fetch then .faulted else if 240 ≤ s.fetch.toNat then .halted else .running := by
  rw [stepNext_of_running running, execNext_status, running, decode_wf, decode_opcode]
  simp only [opcodeOf_eq_hlt_iff]
  cases isReservedByte s.fetch <;> rfl

/-- Settles O38: the reserved bytes, those of HLT, and all others. -/
theorem runStateTransitions : Obligations.RunStateTransitions := by
  intro s running
  refine ⟨stepNext s, step_eq_next s, ?_⟩
  rw [stepNext_status running]
  simp only [isReservedByte_iff]
  split_ifs <;> simp only [true_iff, false_iff] <;> omega

/-- A tick is safe exactly when the state it leaves is not FAULTED. -/
theorem safeOutcome_step_iff (s : State) : SafeOutcome (step s) ↔ (stepNext s).status ≠ .faulted := by
  rw [step_eq_next]
  rfl

/-- Settles O41: a running machine faults by a reserved byte alone, and every other keeps its STATUS. -/
theorem safeStepsAreTheUnfaulted : Obligations.SafeStepsAreTheUnfaulted := by
  intro s
  rw [safeOutcome_step_iff]
  by_cases running : s.status = .running
  · rw [stepNext_of_running running, ne_eq, execNext_status_eq_faulted_iff running, decode_wf]
    simp [running]
  · rw [stepNext_of_ended running]
    exact ⟨fun safe => ⟨safe, fun fetches => running fetches.1⟩, fun safe => safe.1⟩

/-! ### States that never change -/

/-- Where one tick changes nothing, no number of ticks does. -/
theorem run_eq_self_of_step_eq_self {s : State} (h : step s = .next s) (k : Nat) : core.run k s = .next s := by
  induction k with
  | zero => rfl
  | succ k ih =>
    have ticks : core.step s = .next s := h
    simp only [Host.Core.run, ticks, ih]

/-- Settles O39: one tick changes nothing, by the step law of a machine that does not run. -/
theorem terminalStatesNeverChange : Obligations.TerminalStatesNeverChange :=
  fun _ k ended => run_eq_self_of_step_eq_self (step_eq_self_of_not_running ended) k

/-- Settles O40: one tick changes nothing, JMP to its own address writing PC with the PC. -/
theorem selfJumpNeverLeaves : Obligations.SelfJumpNeverLeaves := by
  intro s k running fetched
  have decoded : decode s.fetch = .jmp s.pc := fetched ▸ decode_packByte 6#4 s.pc
  refine run_eq_self_of_step_eq_self ?_ k
  rw [step_eq_next, stepNext_of_running running, decoded]
  rfl

/-! ### The reference listing -/

/-- The triple the listing's `case opcode of` gives, as the model's own record of it. -/
def executedOf (r : State × Bool × Bool) : Executed := ⟨r.1, r.2.1, r.2.2⟩

/-- What the listing's `case opcode of` gives for a row. -/
def referenceExecuted (i : Instr) (s : State) : Executed := executedOf (referenceExecute s i.opcode.toNat i.operand)

/-- The listing's number for a difference modulo 256 is its narrowing to a byte. -/
theorem ofNat_toNat_emod (d : Int) : BitVec.ofNat 8 (d % 256).toNat = BitVec.ofInt 8 (d % 256) := by
  apply BitVec.eq_of_toNat_eq
  rw [BitVec.toNat_ofNat, BitVec.toNat_ofInt]
  omega

/-- The listing's conditional jump is the model's. -/
theorem executedOf_conditionalJump (s : State) (condition : Bool) (n : Addr) :
    executedOf (if condition then ({ s with pc := n }, false, false) else (s, false, true)) = s.jumpIf condition n := by
  cases condition <;> rfl

/-- The listing's arm of a row, with the advance and the halt check, is the row's next state. -/
theorem referenceExecuted_complete {i : Instr} (wf : i.wf = true) (s : State) :
    (referenceExecuted i s).complete = execNext i s := by
  cases i with
  | reserved9 | reserved10 | reserved11 | reserved12 | reserved13 => cases wf
  | add n =>
    rw [execNext, aluAdd_eq_mod]
    rfl
  | sub n =>
    rw [execNext, aluSub_eq_mod, ← ofNat_toNat_emod]
    rfl
  | ldi o =>
    rw [execNext, literalOf_eq_ofNat]
    rfl
  | jc n => exact (congrArg Executed.complete (executedOf_conditionalJump s s.c n)).trans (s.jumpIf_complete s.c n)
  | jz n => exact (congrArg Executed.complete (executedOf_conditionalJump s s.z n)).trans (s.jumpIf_complete s.z n)
  | _ => rfl

theorem operandOf_eq_ofNat (b : Byte) : BitVec.ofNat 4 (b.toNat % 16) = operandOf b := by
  rw [← operandOf_toNat, BitVec.ofNat_toNat, BitVec.setWidth_eq]

/-- The listing's step of a running machine that fetches an instruction. -/
theorem referenceStep_of_wf {s : State} (running : s.status = .running) (wf : (decode s.fetch).wf = true) :
    referenceStep s = (referenceExecuted (decode s.fetch) s).complete := by
  have notReserved : ¬(9 ≤ s.fetch.toNat / 16 ∧ s.fetch.toNat / 16 ≤ 13) := by
    rw [decode_wf, Bool.not_eq_true', isReservedByte_eq_false_iff] at wf
    omega
  rw [referenceExecuted, decode_opcode, decode_operand, opcodeOf_toNat, ← operandOf_eq_ofNat, referenceStep,
    if_neg (not_not.mpr running)]
  exact (if_neg notReserved).trans (by simp only [Executed.complete, State.advancePhase, nextPc_eq_ofNat]; rfl)

/-- The listing's step of a running machine that fetches a reserved byte. -/
theorem referenceStep_of_reserved {s : State} (running : s.status = .running)
    (reserved : isReservedByte s.fetch = true) : referenceStep s = s.raiseUndefinedOpcode s.pc s.fetch := by
  have opcode : 9 ≤ s.fetch.toNat / 16 ∧ s.fetch.toNat / 16 ≤ 13 := by
    rw [isReservedByte_iff] at reserved
    omega
  rw [referenceStep, if_neg (not_not.mpr running)]
  exact if_pos opcode

/-- Settles O42: the listing's three ways through a step are the model's. -/
theorem stepIsTheReferenceStep : Obligations.StepIsTheReferenceStep := by
  intro s
  rw [step_eq_next]
  congr 1
  by_cases running : s.status = .running
  · cases reserved : isReservedByte s.fetch with
    | true => rw [stepNext_of_reserved running reserved, referenceStep_of_reserved running reserved]
    | false =>
      have wf : (decode s.fetch).wf = true := by rw [decode_wf, reserved]; rfl
      rw [stepNext_of_running running, referenceStep_of_wf running wf, referenceExecuted_complete wf]
  · rw [stepNext_of_ended running, referenceStep, if_pos running]

/-! ### The datapath -/

/-- The control signals of a row's opcode make the datapath write what the row writes (R56). -/
theorem datapathStep_of_fetch_eq_encode {s : State} {i : Instr} (fetched : s.fetch = encode i) :
    datapathStep s = execNext i s := by
  rw [datapathStep, fetched]
  simp only [encode, opcodeOf_packByte, operandOf_packByte]
  cases i <;> rfl

/-- Settles O43: the byte fetched is the encoding of the row it decodes to. -/
theorem stepIsTheDatapathStep : Obligations.StepIsTheDatapathStep := by
  intro s running
  rw [step_eq_next, stepNext_of_running running, datapathStep_of_fetch_eq_encode (encode_decode s.fetch).symm]

end Sys2Proof.Machine
end

section
/-! What the outside world sees, and what the assembler emits for blank, commented and raw lines
(spec/60_exceptions.md R108 to R116, spec/30_encoding.md R58 to R63). -/

namespace Sys2Proof.Machine

/-! ### The view -/

theorem State.cause?_of_faulted {s : State} (faulted : s.status = .faulted) :
    s.cause? = some (.undefinedOpcode s.faultAddr s.faultByte) := if_pos faulted

theorem State.cause?_of_not_faulted {s : State} (notFaulted : s.status ≠ .faulted) : s.cause? = none :=
  if_neg notFaulted

/-- The program counter's upper four bits are zero (R16). -/
theorem State.pcRegister_toNat (s : State) : s.pcRegister.toNat = s.pc.toNat := by
  have bound := s.pc.isLt
  rw [State.pcRegister, BitVec.toNat_setWidth]
  omega

/-- Memory shown as bytes holds at each index the byte of that address (R17). -/
theorem Memory.bytes_getElem? (m : Memory) (k : Addr) : (Memory.bytes m)[k.toNat]? = some (Memory.read m k) := by
  have inside : k.toNat < Config.memSize := k.isLt
  rw [Memory.bytes, List.getElem?_map, List.getElem?_range inside]
  rfl

/-- Settles O50: each item of the view against the state it shows. -/
theorem viewTellsHaltFromFault : Obligations.ViewTellsHaltFromFault := by
  intro s
  have pcShown : s.view.pc.toNat = s.pc.toNat := s.pcRegister_toNat
  exact ⟨decide_eq_true_iff, State.cause?_of_faulted, State.cause?_of_not_faulted, rfl, rfl, rfl, rfl, rfl, pcShown,
    pcShown ▸ s.pc.isLt, Memory.bytes_length s.mem, Memory.bytes_getElem? s.mem⟩

/-! ### Source lines and addresses -/

theorem assemble_getElem? (lines : List (List Char)) (n : Nat) :
    (assemble lines)[n]? = (lines[n]?).map assembleLine :=
  List.getElem?_map

/-- Settles O51: the assembled program is the lines mapped. -/
theorem assemblerKeepsLineNumbers : Obligations.AssemblerKeepsLineNumbers :=
  fun lines => ⟨List.length_map assembleLine, assemble_getElem? lines⟩

/-- Settles O55: the loader places byte n at address n, and byte n is that of line n. -/
theorem sourceLineBecomesItsAddress : Obligations.SourceLineBecomesItsAddress := by
  intro lines k
  rw [State.loadProgram, State.memRead_load]
  simp only [assemble, List.length_map, List.getElem_map]

/-! ### Comments and blank lines -/

theorem stripComment_cons {c : Char} (noComment : c ≠ ';') (rest : List Char) :
    stripComment (c :: rest) = c :: stripComment rest :=
  List.takeWhile_cons_of_pos (bne_iff_ne.mpr noComment)

/-- What stands after the `;` is discarded (R58). -/
theorem stripComment_append_comment (text comment : List Char) :
    stripComment (text ++ ';' :: comment) = stripComment text := by
  induction text with
  | nil => rfl
  | cons c rest ih =>
    by_cases semicolon : c = ';'
    · rw [semicolon]
      rfl
    · rw [List.cons_append, stripComment_cons semicolon, stripComment_cons semicolon, ih]

/-- The byte of a line depends on its code text alone (R58). -/
theorem assembleLine_congr {line line' : List Char} (same : codeText line = codeText line') :
    assembleLine line = assembleLine line' := by
  rw [assembleLine, assembleLine?, same]
  rfl

/-- White space is trimmed to nothing. -/
theorem trim_eq_nil {text : List Char} (blank : text.all isSpace = true) : trim text = [] := by
  rw [trim, List.dropWhile_eq_nil_iff.mpr (List.all_eq_true.mp blank)]
  rfl

/-- Settles O54: a blank line has no code text, and a comment leaves a line's code text as it is. -/
theorem blankLinesAndComments : Obligations.BlankLinesAndComments := by
  refine ⟨fun line blank => ?_, fun text comment => ?_⟩
  · have empty : codeText line = codeText [] := trim_eq_nil blank
    exact assembleLine_congr empty
  · exact assembleLine_congr (congrArg trim (stripComment_append_comment text comment))

/-! ### Raw lines -/

/-- A line whose code token is no mnemonic is a raw data line (R60). -/
theorem assembleLine?_raw {line : List Char} (raw : descriptorNamed (codeToken (codeText line)) = none) :
    assembleLine? line = parseByte (codeText line) := by
  rw [assembleLine?, raw]

/-- No mnemonic is made of decimal digits. -/
theorem descriptorNamed_decimal {v : Nat} (h : v < 1000) : descriptorNamed (decimal v) = none := by
  have noDigits : ∀ d ∈ isaTable, d.mnemonic.all isDecimalDigit = false := by decide
  refine List.find?_eq_none.mpr fun d hd named => ?_
  have digits : (decimal v).all isDecimalDigit = true := List.all_eq_true.mpr (isDecimalDigit_of_mem_decimal h)
  rw [← beq_iff_eq.mp named, noDigits d hd] at digits
  exact absurd digits (by decide)

/-- A byte written in decimal is emitted as itself (R60). -/
theorem assembleLine_decimal {v : Nat} (h : v < 256) : assembleLine (decimal v) = BitVec.ofNat 8 v := by
  have word : IsWord (decimal v) := isWord_decimal (by omega)
  have raw : descriptorNamed (codeToken (codeText (decimal v))) = none := by
    rw [codeText_word word, codeToken_word word, descriptorNamed_decimal (by omega)]
  rw [assembleLine, assembleLine?_raw raw, codeText_word word, parseByte_decimal h]
  rfl

/-- Settles O53: a raw line is what its text parses to, and a decimal's text is itself. -/
theorem rawLinesAreEmittedVerbatim : Obligations.RawLinesAreEmittedVerbatim := by
  refine ⟨fun line raw => ?_, fun line failed => ?_, fun v h => assembleLine_decimal h⟩
  · rw [assembleLine, assembleLine?_raw raw]
  · rw [assembleLine, failed]
    rfl

end Sys2Proof.Machine
end
